-- ==== Sys2Proof/Word.lean ====
section
/-! DEFINITION. The word, byte and pixel types of ATKD (00_scope.md R11, R12). -/

namespace Sys2Proof

/-- A host-port word, a register or a pixel word: 32 bits (20_memory.md R51, R53). -/
abbrev Word := BitVec 32

/-- A channel value, the spec's `u8` (00_scope.md R8, R11). -/
abbrev Byte := BitVec 8

/-- A pixel value: four channels, lane 0 = R, 1 = G, 2 = B, 3 = A (00_scope.md R12). -/
structure Pixel where
  r : Byte
  g : Byte
  b : Byte
  a : Byte
deriving DecidableEq, Repr

end Sys2Proof
end

