-- ==== Sys2Proof/Config.lean ====
section
/-! DEFINITION. What the spec fixes by number (00_scope.md R8 to R10), the legal range of its one
parameter that a rule reads, and the free values. -/

namespace Sys2Proof.Config

/-- `THRESHOLD` (00_scope.md R9). -/
def threshold : Nat := 128

/-- `LEVEL_LO` (00_scope.md R9). -/
def levelLo : Byte := 0

/-- `LEVEL_HI` (00_scope.md R9). -/
def levelHi : Byte := 255

/-- `ERR_SHIFT` (00_scope.md R9). -/
def errShift : Nat := 3

/-- The constant the `ID` register reads (10_state.md R24). -/
def idValue : Word := 0x41544B44

/-- The legal values of the parameter PIX_CAPACITY (00_scope.md R10). -/
abbrev legalCapacity (n : Nat) : Prop := 1 ≤ n ∧ n ≤ 2 ^ 30 - 1024

/-- The PIX_CAPACITY that `State.reset` carries, the one 95_test_vectors.md assumes.
DESIGN CHOICE (log 1): the spec leaves PIX_CAPACITY open; every statement quantifies over it. -/
def resetCapacity : Nat := 16

/-- FREE VALUE (20_memory.md R62, 93_implementation_defined.md U3; log 5): the word that the n-th draw
gives. A pixel-window read while the engine is busy returns a draw. Nothing constrains it. -/
opaque draw : Nat → Word

end Sys2Proof.Config
end

