-- ==== Sys2Proof/Machine/State.lean ====
section
/-! DEFINITION. The state of ATKD (10_state.md R20), its reset (R35), and the reasons a step may stop. -/

namespace Sys2Proof.Machine

/-- The engine's phase (10_state.md R22). The scan cursor is the `i` of `dithering i` (R23); it is an index
that never wraps, so a natural number. -/
inductive Phase where
  | idle
  | dithering (i : Nat)
  | verifying
deriving DecidableEq, Repr

/-- The response of a host transaction (20_memory.md R51). -/
inductive Resp where
  | okay
  | error
deriving DecidableEq, Repr

/-- What the host port answers: `MemRead` gives rdata and resp, `MemWrite` gives resp (20_memory.md R51). -/
inductive PortOut where
  | read (rdata : Word) (resp : Resp)
  | write (resp : Resp)
deriving DecidableEq, Repr

/-- What the host does next: one transaction (20_memory.md R51), or the loop `WAIT.IDLE` (30_encoding.md R88). -/
inductive HostOp where
  /-- `MemRead(a, 4)`. -/
  | read (a : Word)
  /-- `MemWrite(a, 4, d)`. -/
  | write (a d : Word)
  /-- Repeat `RD STATUS -> s` until `s[0] = 0`. -/
  | waitIdle
deriving DecidableEq, Repr

/-- One turn of the interleaving of host steps, engine steps and reset events (20_memory.md R64). -/
inductive Turn where
  /-- The host performs its next operation. -/
  | host
  /-- The engine performs its step, if one is enabled. -/
  | engine
  /-- Reset (70_reset_and_hazards.md R180). -/
  | reset
  /-- Reset, overlapping the host's next transaction, which has no effect (70_reset_and_hazards.md R180; log 10). -/
  | resetOverlap
deriving DecidableEq, Repr

/-- The pixel RAM as its written bytes: (host byte address, byte) pairs, addresses strictly rising
(20_memory.md R58; log 11). A byte that is not listed has not been written since reset (log 6). -/
abbrev Memory := List Host.Cell

/-- The state: 10_state.md R20's, the parameter, and the model's own fields for the environment. -/
structure State where
  /-- `CTRL.IRQ_EN` (10_state.md R25). -/
  irqEn : Bool
  /-- `STATUS.DONE` (10_state.md R27). -/
  done : Bool
  /-- `STATUS.ERR` (10_state.md R27). -/
  err : Bool
  /-- `STATUS.TWO_TONE` (10_state.md R27). -/
  twoTone : Bool
  /-- `STATUS.ERRCODE` (10_state.md R27). -/
  errCode : BitVec 4
  /-- `WIDTH` (10_state.md R29). -/
  width : Word
  /-- `HEIGHT` (10_state.md R30). -/
  height : Word
  /-- `PIXCOUNT` (10_state.md R31). -/
  pixCount : Word
  /-- The engine's phase and scan cursor (10_state.md R22, R23). -/
  phase : Phase
  /-- The pixel RAM (10_state.md R33). -/
  pix : Memory
  /-- The parameter PIX_CAPACITY, which no step changes (00_scope.md R10; log 1). -/
  capacity : Nat
  /-- The model's own: the response of the last host transaction (log 4). -/
  port : Option PortOut
  /-- The model's own: how many draws have been taken (log 5). -/
  draws : Nat
  /-- The model's own: what the host has still to do, in issue order (log 2). -/
  hostOps : List HostOp
  /-- The model's own: who moves next, as far as that is fixed (log 2). -/
  turns : List Turn
deriving DecidableEq, Repr

/-- Who read an unwritten pixel word (70_reset_and_hazards.md R181). -/
inductive Reader where
  /-- The host, through the pixel window (20_memory.md R61). -/
  | host
  /-- The engine, in a DITHER pixel step (20_memory.md R63). -/
  | dither
  /-- The engine, in a VERIFY step (20_memory.md R63). -/
  | verify
deriving DecidableEq, Repr

/-- Why the model stops with a fault. -/
inductive Fault where
  /-- Raised by a host read in IDLE, a DITHER pixel step or a VERIFY step that reads pixel word `index`, which
  nothing has written since reset. 70_reset_and_hazards.md R181 asks a model for this fault. SAFE: the hardware
  goes on with some value (log 6). -/
  | unwrittenRead (reader : Reader) (index : Nat)
deriving DecidableEq, Repr

/-- Why the model refuses a step. -/
inductive Refusal where
  /-- An instruction that has no meaning yet: raised by no arm of `exec`. SAFE. -/
  | notModelled (mnemonic : String)
  /-- Raised by a host read of STATUS while ERRCODE holds 5 to 15, which ATKD never produces;
  93_implementation_defined.md U11 asks for this refusal. SAFE: no run reaches it (log 9). -/
  | reservedErrCode (code : BitVec 4)
deriving DecidableEq, Repr

/-- The machine right after reset for a given PIX_CAPACITY (10_state.md R35), with nothing asked of it yet. -/
def State.resetWith (capacity : Nat) : State where
  irqEn := false
  done := false
  err := false
  twoTone := false
  errCode := 0
  width := 0
  height := 0
  pixCount := 0
  phase := .idle
  pix := []
  capacity := capacity
  port := none
  draws := 0
  hostOps := []
  turns := []

/-- The machine right after reset (10_state.md R35); its PIX_CAPACITY is a DESIGN CHOICE (log 1). -/
def State.reset : State := State.resetWith Config.resetCapacity

end Sys2Proof.Machine
end

