-- ==== Sys2Proof/Machine/Operands.lean ====
section
/-! DEFINITION. The operands of commands and transactions: the grid and its coordinates (10_state.md R34,
20_memory.md R59, 40_datapath.md R105 to R107), the packing of a pixel (20_memory.md R57), and the address
map of the host port (R52 to R56). -/

namespace Sys2Proof.Machine

/-- The pixel count `N = WIDTH * HEIGHT`, exact (10_state.md R34). -/
def State.gridN (s : State) : Nat := s.width.toNat * s.height.toNat

/-- `pack(p) = {p.3, p.2, p.1, p.0} = p.0 + 256 p.1 + 65536 p.2 + 16777216 p.3` (00_scope.md R12, 20_memory.md R57). -/
def pack (p : Pixel) : Word :=
  BitVec.ofNat 32 (p.r.toNat + 256 * p.g.toNat + 65536 * p.b.toNat + 16777216 * p.a.toNat)

/-- `unpack(w) = (w[7:0], w[15:8], w[23:16], w[31:24])` (20_memory.md R57). -/
def unpack (w : Word) : Pixel where
  r := w.extractLsb' 0 8
  g := w.extractLsb' 8 8
  b := w.extractLsb' 16 8
  a := w.extractLsb' 24 8

/-- Lane `c` of a pixel, the spec's `p.c` (00_scope.md R12). -/
def laneOf (p : Pixel) : Nat → Byte
  | 0 => p.r
  | 1 => p.g
  | 2 => p.b
  | _ => p.a

/-- The host byte address of channel `c` of `PIX[i]` (20_memory.md R58). -/
def channelAddr (i c : Nat) : Nat := 0x1000 + 4 * i + c

/-- The column of the pixel with index `i` in a grid of width `w` (10_state.md R23). -/
def colOf (w i : Nat) : Nat := i % w

/-- The row of the pixel with index `i` in a grid of width `w` (10_state.md R23). -/
def rowOf (w i : Nat) : Nat := i / w

/-- The six diffusion offsets (dx, dy), in the reference order (40_datapath.md R105, R108). -/
def offsets : List (Int × Int) :=
  [(1, 0), (2, 0), (-1, 1), (0, 1), (1, 1), (0, 2)]

/-- The bounds check, on coordinates (40_datapath.md R107). -/
def inBounds (w h : Nat) (tx ty : Int) : Bool :=
  decide (0 ≤ tx) && decide (tx < w) && decide (0 ≤ ty) && decide (ty < h)

/-- The index of the target of one offset from (x, y), where it is used and in bounds
(40_datapath.md R106, R107; the index by 20_memory.md R59). -/
def targetIndex (w h x y : Nat) (o : Int × Int) : Option Nat :=
  if o = (-1, 1) ∧ x = 0 then none
  else if inBounds w h (x + o.1) (y + o.2) then some (((y + o.2) * w + (x + o.1)).toNat)
  else none

/-- The indices of the in-bounds targets of (x, y), in the reference order (40_datapath.md R108). -/
def targets (w h x y : Nat) : List Nat := offsets.filterMap (targetIndex w h x y)

/-- The targets of pixel step `i` (40_datapath.md R109). -/
def stepTargets (w h i : Nat) : List Nat := targets w h (colOf w i) (rowOf w i)

/-- What an address of the host space names (20_memory.md R54). -/
inductive Location where
  | id
  | ctrl
  | cmd
  | status
  | width
  | height
  | pixCount
  | capacity
  | pix (i : Nat)
deriving DecidableEq, Repr

/-- Why an address gets `resp = ERROR` (20_memory.md R52, R55). -/
inductive BusError where
  | misaligned
  | unmapped
deriving DecidableEq, Repr

/-- The byte offset of a register (20_memory.md R54), and the byte address of `PIX[i]` (R56). -/
def Location.offset : Location → Nat
  | .id => 0x000
  | .ctrl => 0x004
  | .cmd => 0x008
  | .status => 0x00C
  | .width => 0x010
  | .height => 0x014
  | .pixCount => 0x018
  | .capacity => 0x01C
  | .pix i => channelAddr i 0

/-- The address of a location on the host port (30_encoding.md R87). -/
def Location.addr (l : Location) : Word := BitVec.ofNat 32 l.offset

/-- The address map (20_memory.md R52, R54, R55), for a given PIX_CAPACITY. -/
def locate (capacity : Nat) (a : Word) : Except BusError Location :=
  if a.toNat % 4 ≠ 0 then .error .misaligned
  else if 0x1000 ≤ a.toNat then
    if (a.toNat - 0x1000) / 4 < capacity then
      .ok (.pix ((a.toNat - 0x1000) / 4))
    else .error .unmapped
  else match a.toNat with
    | 0x000 => .ok .id
    | 0x004 => .ok .ctrl
    | 0x008 => .ok .cmd
    | 0x00C => .ok .status
    | 0x010 => .ok .width
    | 0x014 => .ok .height
    | 0x018 => .ok .pixCount
    | 0x01C => .ok .capacity
    | _ => .error .unmapped

end Sys2Proof.Machine
end

