-- ==== Sys2Proof/Machine/Flags.lean ====
section
/-! DEFINITION. The status flags: BUSY and the STATUS word as views of the state (10_state.md R27), the error
codes (60_exceptions.md R151), and the interrupt output (R160). -/

namespace Sys2Proof.Machine

/-- `STATUS.BUSY`: 1 exactly when `phase ≠ IDLE` (10_state.md R27). -/
def State.busy (s : State) : Bool := decide (s.phase ≠ .idle)

/-- The word a read of STATUS returns (10_state.md R27): BUSY [0], DONE [1], ERR [2], TWO_TONE [3],
ERRCODE [11:8], reserved bits 0. -/
def State.statusWord (s : State) : Word :=
  BitVec.ofNat 32 (s.busy.toNat + 2 * s.done.toNat + 4 * s.err.toNat + 8 * s.twoTone.toNat + 256 * s.errCode.toNat)

/-- The word a read of CTRL returns: IRQ_EN in bit 0, reserved bits 0 (10_state.md R25). -/
def State.ctrlWord (s : State) : Word := BitVec.ofNat 32 s.irqEn.toNat

/-- The level of the interrupt output, `CTRL.IRQ_EN and (STATUS.DONE or STATUS.ERR)` (60_exceptions.md R160). -/
def State.irq (s : State) : Bool := s.irqEn && (s.done || s.err)

/-- The error causes (60_exceptions.md R151). -/
inductive ErrorCause where
  | illegalCmd
  | busyCmd
  | size
  | hostConflict
deriving DecidableEq, Repr

/-- The code of an error (60_exceptions.md R151). -/
def ErrorCause.code : ErrorCause → BitVec 4
  | .illegalCmd => 1
  | .busyCmd => 2
  | .size => 3
  | .hostConflict => 4

/-- ERRCODE values 5 to 15 are never produced (60_exceptions.md R151). -/
def errCodeReserved (c : BitVec 4) : Bool := 5 ≤ c.toNat

end Sys2Proof.Machine
end

