-- ==== Sys2Proof/Machine/Ops.lean ====
section
/-! DEFINITION. The named operations over the state: the pixel RAM, raising and acknowledging an error, and
the issue of a command. -/

namespace Sys2Proof.Machine

/-- What an unlisted byte reads as: nothing, for nothing has written it since reset
(70_reset_and_hazards.md R181; log 6). -/
def Memory.unlisted : Option Byte := none

/-- Reads one byte at a host byte address. -/
def Memory.readByte : Memory → Nat → Option Byte
  | [], _ => Memory.unlisted
  | (k, v) :: m, a => if k = a then some v else Memory.readByte m a

/-- Writes one byte at a host byte address, keeping the addresses strictly rising. -/
def Memory.writeByte : Memory → Nat → Byte → Memory
  | [], a, v => [(a, v)]
  | (k, w) :: m, a, v =>
    if a < k then (a, v) :: (k, w) :: m
    else if a = k then (a, v) :: m
    else (k, w) :: Memory.writeByte m a v

/-- The canonical form: addresses strictly rising, and no entry equal to what an unlisted byte reads as. -/
abbrev Memory.wf (m : Memory) : Prop :=
  m.Pairwise (fun x y => x.1 < y.1) ∧ ∀ x ∈ m, some x.2 ≠ Memory.unlisted

/-- `PixRead(i)` (20_memory.md R63): the four channels of word `i`, or nothing if it is unwritten (R181). -/
def Memory.pixRead (m : Memory) (i : Nat) : Option Pixel :=
  match m.readByte (channelAddr i 0), m.readByte (channelAddr i 1), m.readByte (channelAddr i 2),
      m.readByte (channelAddr i 3) with
  | some r, some g, some b, some a => some { r := r, g := g, b := b, a := a }
  | _, _, _, _ => none

/-- `PixWrite(i, p)` (20_memory.md R63). -/
def Memory.pixWrite (m : Memory) (i : Nat) (p : Pixel) : Memory :=
  (((m.writeByte (channelAddr i 0) p.r).writeByte (channelAddr i 1) p.g).writeByte (channelAddr i 2) p.b).writeByte
    (channelAddr i 3) p.a

/-- `raise E` (60_exceptions.md R152): ATKD's counterpart of taking an exception. ERRCODE keeps the first error. -/
def State.raise (e : ErrorCause) (s : State) : State :=
  { s with errCode := if s.err then s.errCode else e.code, err := true }

/-- A write of `d` to STATUS (10_state.md R28), by which the host acknowledges a completion or an error: ATKD's
counterpart of a return from an exception (60_exceptions.md R163). -/
def State.acknowledge (d : Word) (s : State) : State :=
  { s with
    done := if d.getLsbD 1 then false else s.done
    err := if d.getLsbD 2 then false else s.err
    errCode := if d.getLsbD 2 then 0 else s.errCode }

/-- The host port gives a response (20_memory.md R51; log 4). -/
def State.respond (r : PortOut) (s : State) : State := { s with port := some r }

/-- A pixel-window read while busy takes a draw (20_memory.md R62; log 5). -/
def State.takeDraw (s : State) : State := { s with draws := s.draws + 1 }

/-- `CTRL.IRQ_EN <- b` (10_state.md R25). -/
def State.setIrqEn (b : Bool) (s : State) : State := { s with irqEn := b }

/-- `WIDTH <- d` (10_state.md R29). -/
def State.setWidth (d : Word) (s : State) : State := { s with width := d }

/-- `HEIGHT <- d` (10_state.md R30). -/
def State.setHeight (d : Word) (s : State) : State := { s with height := d }

/-- The pixel RAM becomes `m`. -/
def State.setPix (m : Memory) (s : State) : State := { s with pix := m }

/-- The host's operations become `ops` (log 2). -/
def State.setHostOps (ops : List HostOp) (s : State) : State := { s with hostOps := ops }

/-- The turns become `ts` (log 2). -/
def State.setTurns (ts : List Turn) (s : State) : State := { s with turns := ts }

/-- What reset does (70_reset_and_hazards.md R180 to R182): every register field and the phase to 10_state.md R35's
values, every pixel word unwritten. The parameter stays, and so do the environment's own fields (log 18). -/
def State.resetEvent (s : State) : State :=
  { State.resetWith s.capacity with draws := s.draws, hostOps := s.hostOps, turns := s.turns }

/-- The issue of a command word (41_commands.md R130, 60_exceptions.md R154): while busy it raises BUSY_CMD and
does nothing else; in IDLE it has the effect given. -/
def issue (effect : State → State) (s : State) : Host.Outcome State Fault Refusal :=
  .next (if s.busy then s.raise .busyCmd else effect s)

/-- The issue of a command over the grid (41_commands.md R130, 60_exceptions.md R155): as `issue`, and it raises SIZE
when the exact N exceeds PIX_CAPACITY. -/
def issueOnGrid (effect : State → State) (s : State) : Host.Outcome State Fault Refusal :=
  issue (fun s => if s.capacity < s.gridN then s.raise .size else effect s) s

end Sys2Proof.Machine
end

