-- ==== Sys2Proof/Machine/Commands.lean ====
section
/-! DEFINITION. The meaning of each command word: what issuing it does in the host step that writes CMD
(41_commands.md R130 to R132, R135). The engine steps that follow are in Machine/Engine.lean (log 14). -/

namespace Sys2Proof.Machine

/-- accept(DITHER) (41_commands.md R132): DONE, TWO_TONE and PIXCOUNT become 0, the cursor 0. -/
def State.acceptDither (s : State) : State :=
  { s with done := false, twoTone := false, pixCount := 0, phase := .dithering 0 }

/-- accept(VERIFY) (41_commands.md R135): DONE becomes 0; TWO_TONE and PIXCOUNT keep their values. -/
def State.acceptVerify (s : State) : State := { s with done := false, phase := .verifying }

/-- NOP (41_commands.md R131). -/
def execNop (s : State) : Host.Outcome State Fault Refusal := issue (fun s => s) s

/-- DITHER (41_commands.md R130, R132). -/
def execDither (s : State) : Host.Outcome State Fault Refusal := issueOnGrid State.acceptDither s

/-- VERIFY (41_commands.md R130, R135). -/
def execVerify (s : State) : Host.Outcome State Fault Refusal := issueOnGrid State.acceptVerify s

/-- An illegal word (60_exceptions.md R153, R154): ILLEGAL_CMD in IDLE, BUSY_CMD while busy, and nothing else. -/
def execIllegal (s : State) : Host.Outcome State Fault Refusal := issue (State.raise .illegalCmd) s

end Sys2Proof.Machine
end

