-- ==== Sys2Proof/Machine/Datapath.lean ====
section
/-! DEFINITION. The threshold-and-distribute datapath (40_datapath.md): the per-channel operations, DIFFUSE, the
pixel step, and the two-tone predicate. A step that reads an unwritten word answers that word's index as an error. -/

namespace Sys2Proof.Machine

/-- THRESHOLD (40_datapath.md R101). -/
def thr (v : Byte) : Byte := if v.toNat < Config.threshold then Config.levelLo else Config.levelHi

/-- SATSUB, `max(0, a - b)` (40_datapath.md R102, 00_scope.md R13). -/
def satsub8 (a b : Byte) : Byte := BitVec.ofNat 8 (max 0 ((a.toNat : Int) - b.toNat)).toNat

/-- SATADD, `min(255, a + b)` (40_datapath.md R104, 00_scope.md R13). -/
def satadd8 (a b : Byte) : Byte := BitVec.ofNat 8 (min 255 (a.toNat + b.toNat))

/-- ERROR, `satsub8(o, n) >> 3` (40_datapath.md R103). -/
def chanErr (o n : Byte) : Byte := satsub8 o n >>> Config.errShift

/-- An operation on one channel, applied lane by lane (40_datapath.md R100). -/
def mapLanes (f : Byte → Byte) (p : Pixel) : Pixel where
  r := f p.r
  g := f p.g
  b := f p.b
  a := f p.a

/-- An operation on two channels, applied lane by lane (40_datapath.md R100). -/
def zipLanes (f : Byte → Byte → Byte) (p q : Pixel) : Pixel where
  r := f p.r q.r
  g := f p.g q.g
  b := f p.b q.b
  a := f p.a q.a

/-- The threshold vector `n` of a sample (40_datapath.md R109 step 2). -/
def pixThr (o : Pixel) : Pixel := mapLanes thr o

/-- The error vector `e` of a sample (40_datapath.md R109 step 4). -/
def pixErr (o : Pixel) : Pixel := zipLanes chanErr o (pixThr o)

/-- A target after it has received the error vector (40_datapath.md R108). -/
def pixAdd (t e : Pixel) : Pixel := zipLanes satadd8 t e

/-- DIFFUSE (40_datapath.md R108) over a list of target indices. -/
def diffuse (e : Pixel) : List Nat → Memory → Except Nat Memory
  | [], m => .ok m
  | j :: js, m =>
    match m.pixRead j with
    | none => .error j
    | some t => diffuse e js (m.pixWrite j (pixAdd t e))

/-- PIXEL STEP (40_datapath.md R109) of index `i` in a grid of `w` columns and `h` rows. -/
def pixelStep (w h i : Nat) (m : Memory) : Except Nat Memory :=
  match m.pixRead i with
  | none => .error i
  | some o => diffuse (pixErr o) (stepTargets w h i) (m.pixWrite i (pixThr o))

/-- A channel is 0 or 255 (40_datapath.md R121). -/
def chanTwoTone (v : Byte) : Bool := v == Config.levelLo || v == Config.levelHi

/-- Every channel of a pixel is 0 or 255 (40_datapath.md R121). -/
def pixTwoTone (p : Pixel) : Bool := chanTwoTone p.r && chanTwoTone p.g && chanTwoTone p.b && chanTwoTone p.a

/-- TWO-TONE predicate over the words 0 .. n-1 (40_datapath.md R121). The scan order is free (93_implementation_defined.md
U1); an unwritten word anywhere in the grid is answered as an error, the lowest one first (log 7). -/
def twoToneGrid (m : Memory) : Nat → Except Nat Bool
  | 0 => .ok true
  | n + 1 =>
    match twoToneGrid m n, m.pixRead n with
    | .error j, _ => .error j
    | .ok _, none => .error n
    | .ok b, some p => .ok (b && pixTwoTone p)

end Sys2Proof.Machine
end

