-- ==== Sys2Proof/Machine/Engine.lean ====
section
/-! DEFINITION. The engine's steps (41_commands.md R133, R134, R136). -/

namespace Sys2Proof.Machine

/-- The DITHER pixel step leaves the pixel RAM at `m` and advances PIXCOUNT and the cursor (41_commands.md R133). -/
def State.advance (i : Nat) (m : Memory) (s : State) : State :=
  { s with pix := m, pixCount := BitVec.ofNat 32 (i + 1), phase := .dithering (i + 1) }

/-- The DITHER completion step (41_commands.md R134). -/
def State.completeDither (s : State) : State := { s with phase := .idle, done := true }

/-- The VERIFY evaluation and completion step (41_commands.md R136). -/
def State.completeVerify (b : Bool) (s : State) : State := { s with twoTone := b, phase := .idle, done := true }

/-- An engine step is enabled: in `DITHERING(i)` with i ≤ N, and in `VERIFYING` (41_commands.md R133, R134, R136). -/
def State.engineEnabled (s : State) : Bool :=
  match s.phase with
  | .idle => false
  | .dithering i => decide (i ≤ s.gridN)
  | .verifying => true

/-- The engine's step (41_commands.md R133, R134, R136); where none is enabled, nothing happens (log 3, log 15). -/
def engineStep (s : State) : Host.Outcome State Fault Refusal :=
  match s.phase with
  | .idle => .next s
  | .dithering i =>
    if i < s.gridN then
      match pixelStep s.width.toNat s.height.toNat i s.pix with
      | .ok m => .next (s.advance i m)
      | .error j => .fault (.unwrittenRead .dither j)
    else if i = s.gridN then .next s.completeDither
    else .next s
  | .verifying =>
    match twoToneGrid s.pix s.gridN with
    | .ok b => .next (s.completeVerify b)
    | .error j => .fault (.unwrittenRead .verify j)

end Sys2Proof.Machine
end

