-- ==== Sys2Proof/Syntax.lean ====
section
/-! DEFINITION. The instructions of ATKD: its three command words (30_encoding.md R83). -/

namespace Sys2Proof

/-- One constructor per row of the opcode table. No command has an operand field (30_encoding.md R82). -/
inductive Instr where
  /-- `NOP`, 0x00000000 (41_commands.md R131). -/
  | nop
  /-- `DITHER`, 0x00000001 (41_commands.md R132). -/
  | dither
  /-- `VERIFY`, 0x00000002 (41_commands.md R135). -/
  | verify
deriving DecidableEq, Repr

end Sys2Proof
end

