-- ==== Sys2Proof/WellFormed.lean ====
section
/-! DEFINITION. The checks on what a command word and an instruction may hold (30_encoding.md R81 to R84). -/

namespace Sys2Proof

/-- Field `OP` of CMD32, bits [7:0] (30_encoding.md R81). -/
def cmdOp (d : Word) : BitVec 8 := d.extractLsb' 0 8

/-- Field `RSVD` of CMD32, bits [31:8] (30_encoding.md R81). -/
def cmdRsvd (d : Word) : BitVec 24 := d.extractLsb' 8 24

/-- The reserved field must be 0 (30_encoding.md R81, R84). -/
def cmdRsvdZero (d : Word) : Bool := cmdRsvd d == 0

/-- `OP` is one of the three assigned opcodes (30_encoding.md R83, R84). -/
def cmdOpAssigned (d : Word) : Bool := (cmdOp d).toNat ≤ 2

/-- A command word is legal exactly when both checks pass (30_encoding.md R84). -/
def cmdWordWf (d : Word) : Bool := cmdRsvdZero d && cmdOpAssigned d

/-- The opcode of an instruction (30_encoding.md R83). -/
def Instr.opcode : Instr → BitVec 8
  | .nop => 0x00
  | .dither => 0x01
  | .verify => 0x02

/-- An instruction is well formed when its opcode is an assigned one. It has no operand to check
(30_encoding.md R82), so every instruction is well formed (`Laws.instr_wf`). -/
def Instr.wf (i : Instr) : Bool := i.opcode.toNat ≤ 2

end Sys2Proof
end

