-- ==== Sys2Proof/Decode.lean ====
section
/-! DEFINITION. Decoding a command word (30_encoding.md R85) and encoding an instruction (R81, R83). -/

namespace Sys2Proof

/-- Why a command word is illegal (30_encoding.md R84). ATKD reports the two alike, as ILLEGAL_CMD. -/
inductive IllegalWord where
  /-- `RSVD` is not 0. -/
  | reservedBits
  /-- `OP` is in 0x03 .. 0xFF. -/
  | reservedOpcode
deriving DecidableEq, Repr

/-- The total decoder of 30_encoding.md R85. Every CMD write is one complete command (R86), so a word
is all a decoder ever sees. -/
def decode (d : Word) : Except IllegalWord Instr :=
  if cmdRsvd d ≠ 0 then .error .reservedBits
  else match (cmdOp d).toNat with
    | 0 => .ok .nop
    | 1 => .ok .dither
    | 2 => .ok .verify
    | _ => .error .reservedOpcode

/-- The word of an instruction: RSVD in [31:8] is 0, OP in [7:0] (30_encoding.md R81, R83). -/
def encode (i : Instr) : Word := (0#24 ++ i.opcode : BitVec 32)

/-- The instruction words of the opcode table, as numbers with bit 0 the least significant: the data word
of the CMD write. Bits above `nbits` are 0. -/
def tableWord (nbits w : Nat) : Word := BitVec.ofNat 32 (w % 2 ^ nbits)

/-- The instruction the decoder reads from a table word. A command is 32 bits (30_encoding.md R80), so a row
longer than that has none (log 13). -/
def decodeTableWord (nbits w : Nat) : Option Instr :=
  if nbits ≤ 32 then (decode (tableWord nbits w)).toOption else none

end Sys2Proof
end

