-- ==== Sys2Proof/Machine/Dispatch.lean ====
section
/-! DEFINITION. The dispatch of a legal command word to its meaning (41_commands.md R130). -/

namespace Sys2Proof.Machine

-- One arm per row of the opcode table (30_encoding.md R83).
def exec (i : Instr) (s : State) : Host.Outcome State Fault Refusal :=
  match i with
  | .nop => Sys2Proof.Machine.execNop s
  | .dither => Sys2Proof.Machine.execDither s
  | .verify => Sys2Proof.Machine.execVerify s

end Sys2Proof.Machine
end

