-- ==== Sys2Proof/Machine/HostPort.lean ====
section
/-! DEFINITION. The transactions of the host port (20_memory.md R51 to R62, 10_state.md R24 to R32). -/

namespace Sys2Proof.Machine

/-- A write of word `d` to CMD: it is decoded (30_encoding.md R85) and dispatched (41_commands.md R130). -/
def cmdWrite (d : Word) (s : State) : Host.Outcome State Fault Refusal :=
  match decode d with
  | .ok i => exec i s
  | .error _ => execIllegal s

/-- A read of a mapped location (10_state.md R24 to R32, 20_memory.md R61, R62). -/
def readLocation (l : Location) (s : State) : Host.Outcome State Fault Refusal :=
  match l with
  | .id => .next (s.respond (.read Config.idValue .okay))
  | .ctrl => .next (s.respond (.read s.ctrlWord .okay))
  | .cmd => .next (s.respond (.read 0 .okay))
  | .status =>
    if errCodeReserved s.errCode then .refused (.reservedErrCode s.errCode)
    else .next (s.respond (.read s.statusWord .okay))
  | .width => .next (s.respond (.read s.width .okay))
  | .height => .next (s.respond (.read s.height .okay))
  | .pixCount => .next (s.respond (.read s.pixCount .okay))
  | .capacity => .next (s.respond (.read (BitVec.ofNat 32 s.capacity) .okay))
  | .pix i =>
    if s.busy then .next (((s.raise .hostConflict).takeDraw).respond (.read (Config.draw s.draws) .okay))
    else match s.pix.pixRead i with
      | some p => .next (s.respond (.read (pack p) .okay))
      | none => .fault (.unwrittenRead .host i)

/-- A write the source forbids while a command runs: dropped, raising HOST_CONFLICT (60_exceptions.md R156). -/
def guardedWrite (effect : State → State) (s : State) : State :=
  if s.busy then s.raise .hostConflict else effect s

/-- A write of `d` to a mapped location (10_state.md R24 to R32, 20_memory.md R61, R62); `s` has answered OKAY. -/
def writeLocation (l : Location) (d : Word) (s : State) : Host.Outcome State Fault Refusal :=
  match l with
  | .id => .next s
  | .ctrl => .next (s.setIrqEn (d.getLsbD 0))
  | .cmd => cmdWrite d s
  | .status => .next (s.acknowledge d)
  | .width => .next (guardedWrite (State.setWidth d) s)
  | .height => .next (guardedWrite (State.setHeight d) s)
  | .pixCount => .next s
  | .capacity => .next s
  | .pix i => .next (guardedWrite (fun s => s.setPix (s.pix.pixWrite i (unpack d))) s)

/-- `MemRead(a, 4)` (20_memory.md R51); a bus error has no effect and reads 0 (R52, R55). -/
def memRead (a : Word) (s : State) : Host.Outcome State Fault Refusal :=
  match locate s.capacity a with
  | .error _ => .next (s.respond (.read 0 .error))
  | .ok l => readLocation l s

/-- `MemWrite(a, 4, d)` (20_memory.md R51); a bus error has no effect (R52, R55), and every other write answers OKAY (R55). -/
def memWrite (a d : Word) (s : State) : Host.Outcome State Fault Refusal :=
  match locate s.capacity a with
  | .error _ => .next (s.respond (.write .error))
  | .ok l => writeLocation l d (s.respond (.write .okay))

end Sys2Proof.Machine
end

