-- ==== Sys2Proof/Machine/Agents.lean ====
section
/-! DEFINITION. The agents' turns: host steps, engine steps and reset events, interleaved (20_memory.md R64). -/

namespace Sys2Proof.Machine

/-- Bit 0 of the word the last transaction read: BUSY, after a read of STATUS (30_encoding.md R88). -/
def State.readBusyBit (s : State) : Bool :=
  match s.port with
  | some (.read d _) => d.getLsbD 0
  | _ => false

/-- `WAIT.IDLE` (30_encoding.md R88): one read of STATUS; while it returns BUSY = 1 the loop is the host's next
operation again (log 12). -/
def waitIdleRead (s : State) : Host.Outcome State Fault Refusal :=
  match memRead (Location.addr .status) s with
  | .next t => .next (if t.readBusyBit then t.setHostOps (.waitIdle :: t.hostOps) else t)
  | .fault f => .fault f
  | .refused r => .refused r

/-- The host performs one operation (20_memory.md R51). -/
def performOp (op : HostOp) (s : State) : Host.Outcome State Fault Refusal :=
  match op with
  | .read a => memRead a s
  | .write a d => memWrite a d s
  | .waitIdle => waitIdleRead s

/-- The host's step: its oldest operation not yet performed (20_memory.md R51); with none, nothing happens (log 3). -/
def hostStep (s : State) : Host.Outcome State Fault Refusal :=
  match s.hostOps with
  | [] => .next s
  | op :: ops => performOp op (s.setHostOps ops)

/-- What the host has still to do after a reset that overlaps its next operation: the one transaction is over, without
effect; a `WAIT.IDLE` goes on, for its read returned nothing (70_reset_and_hazards.md R180; log 10). -/
def dropOverlapped : List HostOp → List HostOp
  | [] => []
  | .read _ :: ops => ops
  | .write _ _ :: ops => ops
  | .waitIdle :: ops => .waitIdle :: ops

/-- One turn of the interleaving (20_memory.md R64). A host transaction that overlaps a reset has no effect
(70_reset_and_hazards.md R180; log 10). -/
def takeTurn (t : Turn) (s : State) : Host.Outcome State Fault Refusal :=
  match t with
  | .host => hostStep s
  | .engine => engineStep s
  | .reset => .next s.resetEvent
  | .resetOverlap => .next (s.setHostOps (dropOverlapped s.hostOps)).resetEvent

/-- Who moves when no turn is fixed: an enabled engine step is taken, else the host moves. With it every run is
weakly fair to the engine (70_reset_and_hazards.md R190; log 2). -/
def defaultTurn (s : State) : Turn := if s.engineEnabled then .engine else .host

/-- One step of the interleaving: the next fixed turn, or the default one. -/
def nextTurn (s : State) : Host.Outcome State Fault Refusal :=
  match s.turns with
  | [] => takeTurn (defaultTurn s) s
  | t :: ts => takeTurn t (s.setTurns ts)

/-- A CMD write of `d` is put before all else: the host's very next operation, at the very next turn (log 13). -/
def withCommand (d : Word) (s : State) : State :=
  (s.setHostOps (.write (Location.addr .cmd) d :: s.hostOps)).setTurns (.host :: s.turns)

end Sys2Proof.Machine
end

