-- ==== Sys2Proof/Machine/Step.lean ====
section
/-! DEFINITION. The step of the machine (20_memory.md R64), and how a command comes to be issued next. -/

namespace Sys2Proof.Machine

/-- One indivisible step: of the host, of the engine, or a reset event (20_memory.md R64). -/
def step (s : State) : Host.Outcome State Fault Refusal := nextTurn s

/-- The state whose next step issues the table word: ATKD fetches nothing (20_memory.md R71), its command is the
data of a CMD write (log 13). -/
def State.withFetchWord (s : State) (nbits w : Nat) : State := withCommand (tableWord nbits w) s

end Sys2Proof.Machine
end

