-- ==== Sys2Proof/Machine/HostProgram.lean ====
section
/-! DEFINITION. The notation of host programs and its expansion into transactions (30_encoding.md R87 to R89). -/

namespace Sys2Proof.Machine

/-- `<target>`: a register name or `PIX[i]`, or a numeric address (30_encoding.md R87). -/
inductive HostTarget where
  | loc (l : Location)
  | addr (a : Word)
deriving DecidableEq, Repr

/-- `<value>`: a 32-bit number or `PIXEL(r,g,b,a)` (30_encoding.md R87). -/
inductive HostValue where
  | num (d : Word)
  | pixel (r g b a : Byte)
deriving DecidableEq, Repr

/-- The statements and pseudo-instructions of a host program (30_encoding.md R87, R88). The `expect` of a read is
what the rules give, or none for `?`; it is a note, and no part of the transaction. -/
inductive HostStmt where
  | wr (t : HostTarget) (v : HostValue)
  | rd (t : HostTarget) (expect : Option Word)
  | cmdNop
  | cmdDither
  | cmdVerify
  | clrDone
  | clrErr
  | waitIdle
  | load (i : Nat) (ps : List HostValue)
  | dump (i k : Nat)
deriving DecidableEq, Repr

/-- A target names a register, a word of the RAM, or an address (30_encoding.md R87, 20_memory.md R54). -/
def targetWf (capacity : Nat) : HostTarget → Bool
  | .loc (.pix i) => i < capacity
  | .loc _ => true
  | .addr _ => true

/-- The statement's targets and its runs of pixel words lie in the RAM (30_encoding.md R87, R88, 20_memory.md R56). -/
def stmtWf (capacity : Nat) : HostStmt → Bool
  | .wr t _ => targetWf capacity t
  | .rd t _ => targetWf capacity t
  | .load i ps => i + ps.length ≤ capacity
  | .dump i k => i + k ≤ capacity
  | .cmdNop => true
  | .cmdDither => true
  | .cmdVerify => true
  | .clrDone => true
  | .clrErr => true
  | .waitIdle => true

/-- `addr(target)` (30_encoding.md R87). -/
def targetAddr : HostTarget → Word
  | .loc l => l.addr
  | .addr a => a

/-- The word a value stands for (30_encoding.md R87). -/
def valueWord : HostValue → Word
  | .num d => d
  | .pixel r g b a => pack { r := r, g := g, b := b, a := a }

/-- `WR PIX[i], p0`, `WR PIX[i+1], p1`, ... (30_encoding.md R88). -/
def loadOps (i : Nat) : List HostValue → List HostOp
  | [] => []
  | p :: ps => .write (Location.addr (.pix i)) (valueWord p) :: loadOps (i + 1) ps

/-- `RD PIX[i]`, ..., `RD PIX[i+k-1]` (30_encoding.md R88). -/
def dumpOps (i : Nat) : Nat → List HostOp
  | 0 => []
  | k + 1 => .read (Location.addr (.pix i)) :: dumpOps (i + 1) k

/-- The expansion of a statement (30_encoding.md R87, R88). -/
def expandStmt : HostStmt → List HostOp
  | .wr t v => [.write (targetAddr t) (valueWord v)]
  | .rd t _ => [.read (targetAddr t)]
  | .cmdNop => [.write (Location.addr .cmd) 0x00000000]
  | .cmdDither => [.write (Location.addr .cmd) 0x00000001]
  | .cmdVerify => [.write (Location.addr .cmd) 0x00000002]
  | .clrDone => [.write (Location.addr .status) 0x00000002]
  | .clrErr => [.write (Location.addr .status) 0x00000004]
  | .waitIdle => [.waitIdle]
  | .load i ps => loadOps i ps
  | .dump i k => dumpOps i k

/-- The encoding of a host program: the list of its transactions (30_encoding.md R89). -/
def encodeProgram (p : List HostStmt) : List HostOp := p.flatMap expandStmt

/-- The host takes up a program, after what it already has to do (log 2). -/
def withProgram (p : List HostStmt) (s : State) : State := s.setHostOps (s.hostOps ++ encodeProgram p)

end Sys2Proof.Machine
end

