-- ==== Sys2Proof/Safety.lean ====
section
/-! DEFINITION. The terms in which claims speak: loaded and two-tone grids, the invariant of the machine, and the
sequential reference of a DITHER command (40_datapath.md R114). -/

namespace Sys2Proof.Machine

/-- Pixel word `i` has been written since reset (70_reset_and_hazards.md R181). -/
abbrev Written (m : Memory) (i : Nat) : Prop := (m.pixRead i).isSome = true

/-- The words 0 .. n-1 have been written (70_reset_and_hazards.md R184 step 3). -/
abbrev Loaded (m : Memory) (n : Nat) : Prop := ∀ i, i < n → Written m i

/-- Word `i` is written and every channel of it is 0 or 255. -/
def wordTwoTone (m : Memory) (i : Nat) : Bool :=
  match m.pixRead i with
  | some p => pixTwoTone p
  | none => false

/-- The words 0 .. n-1 are two-tone (40_datapath.md R116, R121). -/
abbrev TwoToneUpTo (m : Memory) (n : Nat) : Prop := ∀ i, i < n → wordTwoTone m i = true

/-- The scan cursor, in a phase that has one (10_state.md R23). -/
def State.cursor (s : State) : Option Nat :=
  match s.phase with
  | .dithering i => some i
  | _ => none

/-- The pixel RAM is in its canonical form, lies in the window, and holds whole words (20_memory.md R53, R56). -/
abbrev MemoryInv (capacity : Nat) (m : Memory) : Prop :=
  m.wf ∧ (∀ x ∈ m, 0x1000 ≤ x.1 ∧ x.1 < channelAddr capacity 0) ∧
    ∀ x ∈ m, Written m ((x.1 - 0x1000) / 4)

/-- The error latch: a legal code, which is 0 exactly when ERR = 0 (10_state.md R27, 60_exceptions.md R151, R152). -/
abbrev LatchInv (s : State) : Prop := s.errCode.toNat ≤ 4 ∧ (s.err = false ↔ s.errCode = 0)

/-- A command in flight fits the RAM and has not set DONE (10_state.md R34, 41_commands.md R132, R135). -/
abbrev FlightInv (s : State) : Prop := s.busy = true → s.gridN ≤ s.capacity ∧ s.done = false

/-- In `DITHERING(i)`: i ≤ N, PIXCOUNT = i, TWO_TONE = 0, and the i pixels already visited are two-tone
(10_state.md R22, R31, 40_datapath.md R115, R116). -/
abbrev CursorInv (s : State) : Prop := ∀ i ∈ s.cursor,
  i ≤ s.gridN ∧ s.pixCount.toNat = i ∧ s.twoTone = false ∧ TwoToneUpTo s.pix i

/-- The invariant of the machine. -/
abbrev Inv (s : State) : Prop :=
  Config.legalCapacity s.capacity ∧ MemoryInv s.capacity s.pix ∧ LatchInv s ∧ FlightInv s ∧ CursorInv s ∧
    s.pixCount.toNat ≤ s.capacity

/-- The first `k` pixel steps of a DITHER command over a grid of `w` columns and `h` rows, in scan order, from the pixel
RAM `m`: the sequential order that defines the result (40_datapath.md R114). -/
def ditherPrefix (w h : Nat) (m : Memory) : Nat → Except Nat Memory
  | 0 => .ok m
  | k + 1 =>
    match ditherPrefix w h m k with
    | .ok m' => pixelStep w h k m'
    | .error j => .error j

/-- `k` engine steps one after another (41_commands.md R133, R134, R136). -/
def engineSteps : Nat → State → Host.Outcome State Fault Refusal
  | 0, s => .next s
  | k + 1, s =>
    match engineStep s with
    | .next t => engineSteps k t
    | .fault f => .fault f
    | .refused r => .refused r

/-- A DITHER command over a grid of `w` columns and `h` rows is in flight, and the pixel RAM is what its pixel steps before
the cursor make, in scan order, of `m`, the RAM at acceptance (40_datapath.md R114, R117). -/
abbrev RunsFrom (w h : Nat) (m : Memory) (s : State) : Prop :=
  s.width.toNat = w ∧ s.height.toNat = h ∧ s.done = false ∧
    ∃ i, s.phase = .dithering i ∧ i ≤ w * h ∧ ditherPrefix w h m i = .ok s.pix

/-- The next step is the host's: its turn is fixed, or no turn is and no engine step is enabled (20_memory.md R64; log 2). -/
abbrev HostMoves (s : State) : Prop := (s.turns = [] ∧ s.engineEnabled = false) ∨ s.turns.head? = some .host

/-- The next step is the engine's: its turn is fixed, or no turn is and an engine step is enabled (20_memory.md R64; log 2). -/
abbrev EngineMoves (s : State) : Prop := (s.turns = [] ∧ s.engineEnabled = true) ∨ s.turns.head? = some .engine

/-- The next step is the host's, and `op` is its next operation (20_memory.md R51; log 2). -/
abbrev HostNext (s : State) (op : HostOp) : Prop := HostMoves s ∧ s.hostOps.head? = some op

/-- No reset event is among the turns. -/
abbrev NoReset (ts : List Turn) : Prop := ∀ t ∈ ts, t = .host ∨ t = .engine

/-- Two memories agree on the pixel words 0 .. n-1. -/
abbrev AgreeUpTo (n : Nat) (m m' : Memory) : Prop := ∀ i, i < n → m.pixRead i = m'.pixRead i

/-- A host byte address lies in pixel word `i` (20_memory.md R58). -/
abbrev inWord (i a : Nat) : Prop := channelAddr i 0 ≤ a ∧ a < channelAddr (i + 1) 0

end Sys2Proof.Machine
end

