-- ==== Sys2Proof/Certificates/Slice0/Obligations.lean ====
section
/-! DEFINITION. The statements for the provers. Each docstring names the rule of spec/ that it formalises. -/

open Sys2Proof Sys2Proof.Machine

/-! ### Encoding -/

/-- The words of 95_test_vectors.md 2.6 decode as listed there. -/
def Obligations.CommandWordsDecode : Prop :=
  decode 0x00000000 = .ok .nop ∧ decode 0x00000001 = .ok .dither ∧ decode 0x00000002 = .ok .verify ∧
  decode 0x00000003 = .error .reservedOpcode ∧ decode 0x000000FF = .error .reservedOpcode ∧
  decode 0x00000100 = .error .reservedBits ∧ decode 0x00000101 = .error .reservedBits ∧
  decode 0x80000001 = .error .reservedBits ∧ decode 0xFFFFFFFF = .error .reservedBits

/-- 30_encoding.md R81, R83: decoding the encoding of a well-formed instruction gives it back, also as a table word. -/
def Obligations.DecodeOfEncodeIsTheInstruction : Prop :=
  ∀ i : Instr, i.wf = true → decode (encode i) = .ok i ∧ decodeTableWord 32 (encode i).toNat = some i

/-- 30_encoding.md R84, R85, over all 2^32 words: a word is illegal exactly when RSVD ≠ 0 or OP is in 0x03 .. 0xFF, and
exactly the words 0, 1 and 2 decode to NOP, DITHER and VERIFY. -/
def Obligations.ExactlyThreeWordsAreLegal : Prop :=
  ∀ d : Word,
    ((∃ e, decode d = .error e) ↔ (d.toNat / 256 ≠ 0 ∨ 3 ≤ d.toNat % 256)) ∧
    (decode d = .ok .nop ↔ d = 0x00000000) ∧ (decode d = .ok .dither ↔ d = 0x00000001) ∧
    (decode d = .ok .verify ↔ d = 0x00000002)

/-! ### The step and the dispatch -/

/-- 41_commands.md R130, 20_memory.md R71: when the next step is the host's, by a fixed turn or by default (log 2), and its
next operation writes to CMD a word that decodes to `i`, the step is `exec i` of the state in which that turn and
operation are over and the port has answered OKAY; an illegal word is issued as one. So is the table word that
`withFetchWord` places (log 13). -/
def Obligations.StepRunsTheDecodedCommand : Prop :=
  (∀ (s : State) (d : Word), HostNext s (.write 0x008 d) →
      (∀ i, decode d = .ok i →
        step s = exec i { s with
          turns := s.turns.tail, hostOps := s.hostOps.tail, port := some (.write .okay) }) ∧
      (∀ e, decode d = .error e →
        step s = execIllegal { s with
          turns := s.turns.tail, hostOps := s.hostOps.tail, port := some (.write .okay) })) ∧
  (∀ (s : State) (nbits w : Nat) (i : Instr), decodeTableWord nbits w = some i →
    step (s.withFetchWord nbits w) = exec i { s with port := some (.write .okay) })

/-- 41_commands.md R130: the checks of a CMD write in their order, the one error each raises, and that a rejected word
changes nothing but the error latch and the response, which is OKAY in every case. -/
def Obligations.DispatchChecksInOrder : Prop :=
  ∀ (d : Word) (s : State),
    (s.phase ≠ .idle → memWrite 0x008 d s = .next { s with
      port := some (.write .okay), errCode := if s.err then s.errCode else 2, err := true }) ∧
    (s.phase = .idle → (∃ e, decode d = .error e) → memWrite 0x008 d s = .next { s with
      port := some (.write .okay), errCode := if s.err then s.errCode else 1, err := true }) ∧
    (s.phase = .idle → decode d = .ok .nop → memWrite 0x008 d s = .next { s with port := some (.write .okay) }) ∧
    (s.phase = .idle → (decode d = .ok .dither ∨ decode d = .ok .verify) →
      s.capacity < s.width.toNat * s.height.toNat → memWrite 0x008 d s = .next { s with
        port := some (.write .okay), errCode := if s.err then s.errCode else 3, err := true }) ∧
    (s.phase = .idle → decode d = .ok .dither → s.width.toNat * s.height.toNat ≤ s.capacity →
      memWrite 0x008 d s = .next { s with
        port := some (.write .okay), done := false, twoTone := false, pixCount := 0, phase := .dithering 0 }) ∧
    (s.phase = .idle → decode d = .ok .verify → s.width.toNat * s.height.toNat ≤ s.capacity →
      memWrite 0x008 d s = .next { s with port := some (.write .okay), done := false, phase := .verifying })

/-! ### Commands -/

/-- 41_commands.md R131: NOP completes in IDLE with no effect, whatever ERR holds; while busy it raises BUSY_CMD. -/
def Obligations.NopHasNoEffect : Prop :=
  ∀ s : State,
    (s.phase = .idle → exec .nop s = .next s) ∧
    (s.phase ≠ .idle → exec .nop s = .next { s with errCode := if s.err then s.errCode else 2, err := true })

/-- 41_commands.md R132, 60_exceptions.md R162: in IDLE, with a grid that fits, DITHER completes its acceptance, whatever
ERR holds: DONE, TWO_TONE and PIXCOUNT become 0, the cursor 0, BUSY reads 1, and nothing else changes. -/
def Obligations.DitherIsAccepted : Prop :=
  ∀ s : State, s.phase = .idle → s.width.toNat * s.height.toNat ≤ s.capacity →
    ∃ t, exec .dither s = .next t ∧ t.busy = true ∧
      t = { s with done := false, twoTone := false, pixCount := 0, phase := .dithering 0 }

/-- 41_commands.md R135, 60_exceptions.md R162: in IDLE, with a grid that fits, VERIFY completes its acceptance, whatever
ERR holds: DONE becomes 0, the phase VERIFYING, BUSY reads 1, and nothing else changes. -/
def Obligations.VerifyIsAccepted : Prop :=
  ∀ s : State, s.phase = .idle → s.width.toNat * s.height.toNat ≤ s.capacity →
    ∃ t, exec .verify s = .next t ∧ t.busy = true ∧ t = { s with done := false, phase := .verifying }

/-- 41_commands.md R130 to R132, R135, 60_exceptions.md R162: the frame of NOP, DITHER and VERIFY. None stores to memory;
ERR and ERRCODE change only by a rejection; only DITHER writes PIXCOUNT and TWO_TONE. -/
def Obligations.CommandFrame : Prop :=
  ∀ (i : Instr) (s t : State), exec i s = .next t →
    t.irqEn = s.irqEn ∧ t.width = s.width ∧ t.height = s.height ∧ t.capacity = s.capacity ∧ t.port = s.port ∧
    t.draws = s.draws ∧ t.hostOps = s.hostOps ∧ t.turns = s.turns ∧
    (∀ a, t.pix.readByte a = s.pix.readByte a) ∧
    (s.phase = .idle → (i = .nop ∨ s.gridN ≤ s.capacity) → t.err = s.err ∧ t.errCode = s.errCode) ∧
    (i = .nop → t.done = s.done ∧ t.phase = s.phase) ∧
    (i ≠ .dither → t.pixCount = s.pixCount ∧ t.twoTone = s.twoTone) ∧
    (s.phase ≠ .idle ∨ (i ≠ .nop ∧ s.capacity < s.gridN) →
      t.done = s.done ∧ t.phase = s.phase ∧ t.pixCount = s.pixCount ∧ t.twoTone = s.twoTone)

/-! ### The datapath -/

/-- 40_datapath.md R101. -/
def Obligations.ThresholdSplitsAt128 : Prop :=
  ∀ v : Byte, thr v = if v.toNat < 128 then 0 else 255

/-- 40_datapath.md R102, R104: subtraction stops at 0 and addition at 255; neither wraps. -/
def Obligations.ChannelArithmeticSaturates : Prop :=
  ∀ a b : Byte, ((satsub8 a b).toNat : Int) = max 0 ((a.toNat : Int) - b.toNat) ∧
    (satadd8 a b).toNat = min 255 (a.toNat + b.toNat)

/-- 40_datapath.md R103: the error is one eighth of the one-sided loss; with the sample's own threshold it is an eighth of
a darkened sample and 0 otherwise, always in [0, 15]. -/
def Obligations.ErrorIsAnEighthOfTheDarkening : Prop :=
  (∀ o n : Byte, (chanErr o n).toNat = (satsub8 o n).toNat / 8) ∧
  ∀ o : Byte, (chanErr o (thr o)).toNat = (if o.toNat < 128 then o.toNat / 8 else 0) ∧ (chanErr o (thr o)).toNat ≤ 15

/-- 40_datapath.md R105 to R107: the targets of an in-grid pixel are exactly the in-bounds ones of the six offsets, with
(-1, +1) only at x ≠ 0, and nothing wraps. -/
def Obligations.TargetsAreTheInBoundsOffsets : Prop :=
  ∀ w h x y j : Nat, x < w → y < h →
    (j ∈ targets w h x y ↔
      (x + 1 < w ∧ j = y * w + (x + 1)) ∨ (x + 2 < w ∧ j = y * w + (x + 2)) ∨
      (x ≠ 0 ∧ y + 1 < h ∧ j = (y + 1) * w + (x - 1)) ∨ (y + 1 < h ∧ j = (y + 1) * w + x) ∨
      (x + 1 < w ∧ y + 1 < h ∧ j = (y + 1) * w + (x + 1)) ∨ (y + 2 < h ∧ j = (y + 2) * w + x))

/-- 40_datapath.md R115: every target of step i has one of the six indices of R115's table, lies after i in scan order and,
by R107, inside the grid; and the targets are distinct (R112). -/
def Obligations.TargetsLieAheadAndAreDistinct : Prop :=
  ∀ w h i : Nat, i < w * h →
    (∀ j ∈ stepTargets w h i,
      (j = i + 1 ∨ j = i + 2 ∨ (i % w ≠ 0 ∧ j = i + w - 1) ∨ j = i + w ∨ j = i + w + 1 ∨ j = i + 2 * w) ∧
      i < j ∧ j < w * h) ∧
    (stepTargets w h i).Nodup

/-- 40_datapath.md R112: the order in which DIFFUSE visits distinct targets does not change the result. -/
def Obligations.TargetOrderIsIrrelevant : Prop :=
  ∀ (e : Pixel) (js ks : List Nat) (m n : Memory), m.wf → js.Nodup → js.Perm ks →
    diffuse e js m = .ok n → diffuse e ks m = .ok n

/-- 40_datapath.md R111: moving the write-back of the threshold vector after DIFFUSE gives the same step. -/
def Obligations.WriteBackOrderIsIrrelevant : Prop :=
  ∀ (w h i : Nat) (m : Memory) (o : Pixel), m.wf → i < w * h → m.pixRead i = some o →
    pixelStep w h i m =
      (match diffuse (pixErr o) (stepTargets w h i) m with
       | .ok n => .ok (n.pixWrite i (pixThr o))
       | .error j => .error j)

/-- 40_datapath.md R100, R120: no lane reads another lane's value. From memories that agree on lane c of every word, the
pixel steps of a DITHER command leave memories that agree on lane c of every word, whatever the other lanes hold. -/
def Obligations.LanesDoNotInterfere : Prop :=
  ∀ (w h k c : Nat) (m m' n n' : Memory), c < 4 →
    (∀ i, m.readByte (channelAddr i c) = m'.readByte (channelAddr i c)) →
    ditherPrefix w h m k = .ok n → ditherPrefix w h m' k = .ok n' →
    ∀ i, n.readByte (channelAddr i c) = n'.readByte (channelAddr i c)

/-- 40_datapath.md R118, R110: the sample that pixel step j reads is, on every lane, min(255, loaded value + the sum of
the errors of the earlier samples that have j as a target). -/
def Obligations.SampleIsTheClampedSum : Prop :=
  ∀ (w h j : Nat) (m : Memory) (o : Nat → Pixel), j < w * h →
    (∀ i, i ≤ j → ∃ n, ditherPrefix w h m i = .ok n ∧ n.pixRead i = some (o i)) →
    ∃ v, m.pixRead j = some v ∧ ∀ c, c < 4 →
      (laneOf (o j) c).toNat = min 255 ((laneOf v c).toNat +
        ((List.range j).map fun i =>
          if j ∈ stepTargets w h i then (laneOf (pixErr (o i)) c).toNat else 0).sum)

/-! ### The engine -/

/-- 41_commands.md R133, 40_datapath.md R109: on a loaded grid the pixel step of i goes on. Word i becomes the threshold
vector of its sample, each target gains the error vector, every other byte stays, PIXCOUNT and the cursor advance
by 1, and nothing else changes. -/
def Obligations.PixelStepThresholdsAndDiffuses : Prop :=
  ∀ (s : State) (i : Nat), s.phase = .dithering i → i < s.gridN → Loaded s.pix s.gridN →
    ∃ m o, engineStep s = .next { s with
        pix := m, pixCount := BitVec.ofNat 32 (i + 1), phase := .dithering (i + 1) } ∧
      s.pix.pixRead i = some o ∧
      m.pixRead i = some { r := thr o.r, g := thr o.g, b := thr o.b, a := thr o.a } ∧
      (∀ j ∈ stepTargets s.width.toNat s.height.toNat i, ∃ t, s.pix.pixRead j = some t ∧
        m.pixRead j = some {
          r := satadd8 t.r (chanErr o.r (thr o.r)), g := satadd8 t.g (chanErr o.g (thr o.g)),
          b := satadd8 t.b (chanErr o.b (thr o.b)), a := satadd8 t.a (chanErr o.a (thr o.a)) }) ∧
      (∀ a, ¬ inWord i a → (∀ j ∈ stepTargets s.width.toNat s.height.toNat i, ¬ inWord j a) →
        m.readByte a = s.pix.readByte a)

/-- 41_commands.md R134: the completion step of DITHER. -/
def Obligations.DitherCompletionSetsDone : Prop :=
  ∀ s : State, s.phase = .dithering (s.width.toNat * s.height.toNat) →
    ∃ t, engineStep s = .next t ∧ t.busy = false ∧ t = { s with phase := .idle, done := true }

/-- 41_commands.md R136, 40_datapath.md R121: on a loaded grid the VERIFY step writes TWO_TONE with the predicate, sets
DONE, goes to IDLE, and changes nothing else. -/
def Obligations.VerifyStepReportsTwoTone : Prop :=
  ∀ s : State, s.phase = .verifying → Loaded s.pix s.gridN →
    ∃ b, engineStep s = .next { s with twoTone := b, phase := .idle, done := true } ∧
      (b = true ↔ ∀ i, i < s.gridN → ∀ p, s.pix.pixRead i = some p → ∀ c, c < 4 →
        laneOf p c = 0 ∨ laneOf p c = 255)

/-- 20_memory.md R60, 60_exceptions.md R158, 40_datapath.md R119: the frame of an engine step. It raises no error, writes
no register but PIXCOUNT and the flags of its completion, and touches no byte outside the grid; only a pixel step
stores at all. -/
def Obligations.EngineStepFrame : Prop :=
  ∀ s t : State, engineStep s = .next t →
    t.irqEn = s.irqEn ∧ t.err = s.err ∧ t.errCode = s.errCode ∧ t.width = s.width ∧ t.height = s.height ∧
    t.capacity = s.capacity ∧ t.port = s.port ∧ t.draws = s.draws ∧ t.hostOps = s.hostOps ∧ t.turns = s.turns ∧
    (∀ a, (∀ i, i < s.gridN → ¬ inWord i a) → t.pix.readByte a = s.pix.readByte a) ∧
    ((∀ i, s.phase = .dithering i → s.gridN ≤ i) → t.pix = s.pix ∧ t.pixCount = s.pixCount) ∧
    (s.phase ≠ .verifying → t.twoTone = s.twoTone)

/-- 40_datapath.md R119, 41_commands.md R133, R136: on a loaded grid no engine step can fail, and the grid stays loaded. -/
def Obligations.EngineCannotFailOnALoadedGrid : Prop :=
  ∀ s : State, Loaded s.pix s.gridN → ∃ t, engineStep s = .next t ∧ t.gridN = s.gridN ∧ Loaded t.pix t.gridN

/-- 70_reset_and_hazards.md R181: an engine step faults exactly when it reads an unwritten word of the grid, and names the
reader and such a word. A pixel step reads word i and the targets of i (40_datapath.md R108, R109). That a VERIFY
step (R121, 41_commands.md R136) reads the whole grid, also past a word that is not two-tone, is the model's
choice (log 7), and which of several unwritten words is named is left open here. Nothing else stops a step. -/
def Obligations.EngineFaultsOnlyOnUnwrittenWords : Prop :=
  ∀ s : State,
    (∀ r, engineStep s ≠ .refused r) ∧
    (∀ f, engineStep s = .fault f → ∃ j, j < s.gridN ∧ s.pix.pixRead j = none ∧
      ((f = .unwrittenRead .dither j ∧ ∃ i, s.phase = .dithering i ∧ i < s.gridN ∧
          (j = i ∨ j ∈ stepTargets s.width.toNat s.height.toNat i)) ∨
        (f = .unwrittenRead .verify j ∧ s.phase = .verifying))) ∧
    (∀ i j, s.phase = .dithering i → i < s.gridN →
      (j = i ∨ j ∈ stepTargets s.width.toNat s.height.toNat i) → s.pix.pixRead j = none →
      ∃ k, engineStep s = .fault (.unwrittenRead .dither k)) ∧
    (∀ j, s.phase = .verifying → j < s.gridN → s.pix.pixRead j = none →
      ∃ k, engineStep s = .fault (.unwrittenRead .verify k))

/-- 70_reset_and_hazards.md R190: a DITHER command takes exactly N + 1 engine steps, a VERIFY command exactly 1. -/
def Obligations.DitherTakesNPlusOneEngineSteps : Prop :=
  (∀ s : State, s.phase = .dithering 0 → Loaded s.pix s.gridN →
    (∀ k, k ≤ s.gridN → ∃ t, engineSteps k s = .next t ∧ t.phase = .dithering k ∧ t.done = s.done) ∧
    ∃ t, engineSteps (s.gridN + 1) s = .next t ∧ t.phase = .idle ∧ t.done = true) ∧
  (∀ s : State, s.phase = .verifying → Loaded s.pix s.gridN →
    ∃ t, engineSteps 1 s = .next t ∧ t.phase = .idle ∧ t.done = true)

/-! ### Whole commands -/

/-- 40_datapath.md R116, R114, 41_commands.md R134, 20_memory.md R60: from IDLE, over a loaded grid that fits,
the host's write of 1 to CMD and N + 1 engine steps run a whole DITHER command. It completes; every channel of
`PIX[0 .. N-1]` is then 0 or 255; the RAM is the result of the N pixel steps in scan order; no byte outside the
grid has changed; PIXCOUNT = N, DONE = 1, BUSY = 0; every other register keeps its value. -/
def Obligations.DitherYieldsATwoToneGrid : Prop :=
  ∀ (s : State) (ts : List Turn) (ops : List HostOp), Config.legalCapacity s.capacity → s.phase = .idle →
    s.gridN ≤ s.capacity → Loaded s.pix s.gridN →
    s.turns = .host :: (List.replicate (s.gridN + 1) .engine ++ ts) → s.hostOps = .write 0x008 0x00000001 :: ops →
    ∃ t, core.run (s.gridN + 2) s = .next t ∧
      ditherPrefix s.width.toNat s.height.toNat s.pix s.gridN = .ok t.pix ∧
      (∀ i, i < s.gridN → ∃ p, t.pix.pixRead i = some p ∧ ∀ c, c < 4 → laneOf p c = 0 ∨ laneOf p c = 255) ∧
      (∀ a, (∀ i, i < s.gridN → ¬ inWord i a) → t.pix.readByte a = s.pix.readByte a) ∧
      t.phase = .idle ∧ t.busy = false ∧ t.done = true ∧ t.twoTone = false ∧ t.pixCount.toNat = s.gridN ∧
      t.err = s.err ∧ t.errCode = s.errCode ∧ t.irqEn = s.irqEn ∧ t.width = s.width ∧ t.height = s.height ∧
      t.capacity = s.capacity ∧ t.turns = ts ∧ t.hostOps = ops

/-- 40_datapath.md R116, R117, R114, 20_memory.md R62: the result of a DITHER command is a function of W, H and
the pixel RAM at acceptance. Whatever the host does and however the steps interleave, while the command is in
flight the RAM is that after the first i pixel steps in scan order, i being the cursor; at the step that leaves
the flight it is the full sequential result, and every channel of `PIX[0 .. N-1]` is 0 or 255. No reset is among the turns of
the run. -/
def Obligations.AnyScheduleRunsTheSequentialOrder : Prop :=
  ∀ (s t : State) (k : Nat), s.phase = .dithering 0 → s.done = false → NoReset (s.turns.take k) →
    core.run k s = .next t →
    (∀ j u, j < k → core.run j s = .next u → u.busy = true) →
    t.width = s.width ∧ t.height = s.height ∧
    ((∃ i, i ≤ s.gridN ∧ t.phase = .dithering i ∧ t.done = false ∧
        ditherPrefix s.width.toNat s.height.toNat s.pix i = .ok t.pix) ∨
      (t.phase = .idle ∧ t.done = true ∧
        ditherPrefix s.width.toNat s.height.toNat s.pix s.gridN = .ok t.pix ∧
        ∀ i, i < s.gridN → ∃ p, t.pix.pixRead i = some p ∧ ∀ c, c < 4 → laneOf p c = 0 ∨ laneOf p c = 255))

/-- 40_datapath.md R117, 20_memory.md R60: the result depends on the words of the grid alone. From memories that agree on
`PIX[0 .. N-1]`, the pixel steps give memories that agree there, or stop alike. -/
def Obligations.ResultDependsOnlyOnTheGrid : Prop :=
  ∀ (w h k : Nat) (m m' n : Memory), k ≤ w * h → AgreeUpTo (w * h) m m' → ditherPrefix w h m k = .ok n →
    ∃ n', ditherPrefix w h m' k = .ok n' ∧ AgreeUpTo (w * h) n n'

/-- 60_exceptions.md R164, 40_datapath.md R116: after a whole DITHER command a VERIFY command reports TWO_TONE = 1. -/
def Obligations.VerifyAfterDitherReportsTwoTone : Prop :=
  ∀ s : State, s.phase = .idle → s.gridN ≤ s.capacity → Loaded s.pix s.gridN →
    ∃ t u v x, exec .dither s = .next t ∧ engineSteps (s.gridN + 1) t = .next u ∧ exec .verify u = .next v ∧
      engineSteps 1 v = .next x ∧ x.twoTone = true ∧ x.done = true ∧ x.phase = .idle ∧ x.pix = u.pix

/-- 70_reset_and_hazards.md R184: a DITHER command over a two-tone grid leaves the pixel RAM as it was. -/
def Obligations.DitherIsTheIdentityOnATwoToneGrid : Prop :=
  ∀ (w h : Nat) (m : Memory), m.wf → TwoToneUpTo m (w * h) → ditherPrefix w h m (w * h) = .ok m

/-! ### Errors, acknowledgement and the interrupt -/

/-- 60_exceptions.md R152, R151: raising an error latches its code only if ERR is 0, sets ERR, and does nothing else. -/
def Obligations.RaiseLatchesTheFirstError : Prop :=
  ∀ (e : ErrorCause) (s : State),
    s.raise e = { s with
      err := true
      errCode := if s.err = false then
          (match e with | .illegalCmd => 1 | .busyCmd => 2 | .size => 3 | .hostConflict => 4)
        else s.errCode }

/-- 60_exceptions.md R152, R163: through any step, while ERR stays 1 ERRCODE keeps the first error's code. -/
def Obligations.FirstErrorIsKeptUntilCleared : Prop :=
  ∀ s t : State, step s = .next t → s.err = true → t.err = true → t.errCode = s.errCode

/-- 10_state.md R28: a write of d to STATUS, in any phase; and a STATUS read has no side effect. -/
def Obligations.StatusWriteClears : Prop :=
  ∀ (d : Word) (s : State),
    memWrite 0x00C d s = .next { s with
      port := some (.write .okay)
      done := if d.getLsbD 1 = true then false else s.done
      err := if d.getLsbD 2 = true then false else s.err
      errCode := if d.getLsbD 2 = true then 0 else s.errCode } ∧
    (s.errCode.toNat ≤ 4 → memRead 0x00C s = .next { s with port := some (.read s.statusWord .okay) })

/-- 60_exceptions.md R160. -/
def Obligations.IrqIsTheMaskedLevel : Prop :=
  ∀ s : State, s.irq = true ↔ s.irqEn = true ∧ (s.done = true ∨ s.err = true)

/-- 60_exceptions.md R160, R161, R163: with IRQ_EN = 1 both completion steps drive irq, and so does every raised error,
through each kind of transaction that raises one (R153 to R156); a CTRL write enables or masks the line at once
and changes neither DONE nor ERR; after a STATUS write irq is driven by the sources it leaves set, so that clearing
one drops irq if the other is not set; acceptance of a command clears DONE. -/
def Obligations.IrqFollowsItsSources : Prop :=
  ∀ s : State,
    (s.irqEn = true →
      (s.phase = .dithering s.gridN → ∃ t, engineStep s = .next t ∧ t.irq = true) ∧
      (s.phase = .verifying → Loaded s.pix s.gridN → ∃ t, engineStep s = .next t ∧ t.irq = true) ∧
      (∀ e : ErrorCause, (s.raise e).irq = true) ∧
      (∀ d, s.phase ≠ .idle → ∃ t, memWrite 0x008 d s = .next t ∧ t.irq = true) ∧
      (∀ d e, s.phase = .idle → decode d = .error e → ∃ t, memWrite 0x008 d s = .next t ∧ t.irq = true) ∧
      (∀ d, s.phase = .idle → (decode d = .ok .dither ∨ decode d = .ok .verify) → s.capacity < s.gridN →
        ∃ t, memWrite 0x008 d s = .next t ∧ t.irq = true) ∧
      (∀ d, s.phase ≠ .idle → (∃ t, memWrite 0x010 d s = .next t ∧ t.irq = true) ∧
        ∃ t, memWrite 0x014 d s = .next t ∧ t.irq = true) ∧
      (∀ (i : Nat) (a d : Word), s.phase ≠ .idle → i < s.capacity → a.toNat = 0x1000 + 4 * i →
        (∃ t, memRead a s = .next t ∧ t.irq = true) ∧ ∃ t, memWrite a d s = .next t ∧ t.irq = true)) ∧
    (∀ d, ∃ t, memWrite 0x004 d s = .next t ∧ t.done = s.done ∧ t.err = s.err ∧
      (t.irq = true ↔ d.getLsbD 0 = true ∧ (s.done = true ∨ s.err = true))) ∧
    (∀ d, ∃ t, memWrite 0x00C d s = .next t ∧
      (t.irq = true ↔ s.irqEn = true ∧
        ((s.done = true ∧ d.getLsbD 1 = false) ∨ (s.err = true ∧ d.getLsbD 2 = false)))) ∧
    (∀ i : Instr, s.phase = .idle → i ≠ .nop → s.gridN ≤ s.capacity →
      ∃ t, exec i s = .next t ∧ t.done = false ∧ (t.irq = true ↔ s.irqEn = true ∧ s.err = true))

/-! ### The host port -/

/-- 20_memory.md R52, R54 to R56: the address map, for every legal PIX_CAPACITY and every address. -/
def Obligations.AddressMap : Prop :=
  ∀ (n : Nat) (a : Word), Config.legalCapacity n →
    (locate n a = .error .misaligned ↔ a.toNat % 4 ≠ 0) ∧
    (locate n a = .ok .id ↔ a.toNat = 0x000) ∧ (locate n a = .ok .ctrl ↔ a.toNat = 0x004) ∧
    (locate n a = .ok .cmd ↔ a.toNat = 0x008) ∧ (locate n a = .ok .status ↔ a.toNat = 0x00C) ∧
    (locate n a = .ok .width ↔ a.toNat = 0x010) ∧ (locate n a = .ok .height ↔ a.toNat = 0x014) ∧
    (locate n a = .ok .pixCount ↔ a.toNat = 0x018) ∧ (locate n a = .ok .capacity ↔ a.toNat = 0x01C) ∧
    (∀ i, locate n a = .ok (.pix i) ↔ i < n ∧ a.toNat = 0x1000 + 4 * i) ∧
    (locate n a = .error .unmapped ↔ a.toNat % 4 = 0 ∧
      ((0x020 ≤ a.toNat ∧ a.toNat ≤ 0xFFC) ∨ 0x1000 + 4 * n ≤ a.toNat))

/-- 20_memory.md R52, R55, 60_exceptions.md R157: a misaligned or unmapped transaction answers ERROR, reads 0 and changes no
state; and every other one answers OKAY. -/
def Obligations.BusErrorsHaveNoEffect : Prop :=
  ∀ (a d : Word) (s : State),
    ((a.toNat % 4 ≠ 0 ∨ (0x020 ≤ a.toNat ∧ a.toNat ≤ 0xFFC) ∨ 0x1000 + 4 * s.capacity ≤ a.toNat) →
      memRead a s = .next { s with port := some (.read 0 .error) } ∧
      memWrite a d s = .next { s with port := some (.write .error) }) ∧
    (a.toNat % 4 = 0 → (a.toNat < 0x020 ∨ (0x1000 ≤ a.toNat ∧ a.toNat < 0x1000 + 4 * s.capacity)) →
      (∀ t, memRead a s = .next t → ∃ v, t.port = some (.read v .okay)) ∧
      ∃ t, memWrite a d s = .next t ∧ t.port = some (.write .okay))

/-- 10_state.md R27: the layout of STATUS, BUSY being 1 exactly when the phase is not IDLE. -/
def Obligations.StatusWordLayout : Prop :=
  ∀ s : State,
    (s.statusWord.getLsbD 0 = true ↔ s.phase ≠ .idle) ∧ s.statusWord.getLsbD 1 = s.done ∧
    s.statusWord.getLsbD 2 = s.err ∧ s.statusWord.getLsbD 3 = s.twoTone ∧
    s.statusWord.extractLsb' 4 4 = 0 ∧ s.statusWord.extractLsb' 8 4 = s.errCode ∧
    s.statusWord.extractLsb' 12 20 = 0

/-- 10_state.md R24 to R27, R29 to R32, 20_memory.md R65: what each register reads, in any phase. A register read changes
nothing but the port's response. -/
def Obligations.RegisterReads : Prop :=
  ∀ s : State,
    memRead 0x000 s = .next { s with port := some (.read 0x41544B44 .okay) } ∧
    memRead 0x004 s = .next { s with port := some (.read (if s.irqEn then 1 else 0) .okay) } ∧
    memRead 0x008 s = .next { s with port := some (.read 0 .okay) } ∧
    (s.errCode.toNat ≤ 4 → memRead 0x00C s = .next { s with port := some (.read s.statusWord .okay) }) ∧
    memRead 0x010 s = .next { s with port := some (.read s.width .okay) } ∧
    memRead 0x014 s = .next { s with port := some (.read s.height .okay) } ∧
    memRead 0x018 s = .next { s with port := some (.read s.pixCount .okay) } ∧
    memRead 0x01C s = .next { s with port := some (.read (BitVec.ofNat 32 s.capacity) .okay) }

/-- 10_state.md R24, R25, R29 to R32: what each register write does; writes to ID, PIXCOUNT and CAPACITY are ignored, a CTRL
write sets IRQ_EN in every phase, and a WIDTH or HEIGHT write takes effect in IDLE and otherwise is dropped and
raises HOST_CONFLICT. -/
def Obligations.RegisterWrites : Prop :=
  ∀ (d : Word) (s : State),
    memWrite 0x000 d s = .next { s with port := some (.write .okay) } ∧
    memWrite 0x004 d s = .next { s with port := some (.write .okay), irqEn := d.getLsbD 0 } ∧
    (s.phase = .idle → memWrite 0x010 d s = .next { s with port := some (.write .okay), width := d }) ∧
    (s.phase = .idle → memWrite 0x014 d s = .next { s with port := some (.write .okay), height := d }) ∧
    (s.phase ≠ .idle → memWrite 0x010 d s = .next { s with
      port := some (.write .okay), errCode := if s.err then s.errCode else 4, err := true }) ∧
    (s.phase ≠ .idle → memWrite 0x014 d s = .next { s with
      port := some (.write .okay), errCode := if s.err then s.errCode else 4, err := true }) ∧
    memWrite 0x018 d s = .next { s with port := some (.write .okay) } ∧
    memWrite 0x01C d s = .next { s with port := some (.write .okay) }

/-- 20_memory.md R57: the packing of a pixel, and that packing and unpacking are inverse. -/
def Obligations.PixelPacking : Prop :=
  (∀ p : Pixel, (pack p).toNat =
      p.r.toNat + 256 * p.g.toNat + 65536 * p.b.toNat + 16777216 * p.a.toNat ∧ unpack (pack p) = p) ∧
  (∀ w : Word, pack (unpack w) = w)

/-- 20_memory.md R61, R56: in IDLE a host read of a written pixel word returns it and changes nothing but the response; a host
write stores the word, changing no other byte and no register, and a host read of it then returns the word. -/
def Obligations.IdlePixelWriteIsReadBack : Prop :=
  ∀ (s : State) (i : Nat) (a d : Word), s.phase = .idle → i < s.capacity → a.toNat = 0x1000 + 4 * i →
    (∀ p, s.pix.pixRead i = some p → memRead a s = .next { s with port := some (.read (pack p) .okay) }) ∧
    ∃ m, memWrite a d s = .next { s with port := some (.write .okay), pix := m } ∧
      m.pixRead i = some (unpack d) ∧ (∀ b, ¬ inWord i b → m.readByte b = s.pix.readByte b) ∧
      memRead a { s with port := some (.write .okay), pix := m } =
        .next { s with port := some (.read d .okay), pix := m }

/-- 70_reset_and_hazards.md R181: in IDLE a host read of an unwritten pixel word is a fault that names the host. -/
def Obligations.UnwrittenHostReadFaults : Prop :=
  ∀ (s : State) (i : Nat) (a : Word), s.phase = .idle → i < s.capacity → a.toNat = 0x1000 + 4 * i →
    s.pix.pixRead i = none → memRead a s = .fault (.unwrittenRead .host i)

/-- 20_memory.md R62, 60_exceptions.md R156: while busy a pixel write is dropped and a pixel read returns a draw; each
answers OKAY, raises HOST_CONFLICT and changes nothing else. It holds whatever value the draw has (log 5). -/
def Obligations.BusyPixelAccessConflicts : Prop :=
  ∀ (s : State) (i : Nat) (a d : Word), s.phase ≠ .idle → i < s.capacity → a.toNat = 0x1000 + 4 * i →
    memWrite a d s = .next { s with
      port := some (.write .okay), errCode := if s.err then s.errCode else 4, err := true } ∧
    ∃ v, memRead a s = .next { s with
      port := some (.read v .okay), errCode := if s.err then s.errCode else 4, err := true, draws := s.draws + 1 }

/-- 20_memory.md R62, 70_reset_and_hazards.md R185, 10_state.md R22: no host step changes a command in flight: not the
phase, the cursor, the grid's size, the pixel RAM, PIXCOUNT or TWO_TONE. -/
def Obligations.HostCannotDisturbACommand : Prop :=
  ∀ s t : State, s.phase ≠ .idle → hostStep s = .next t →
    t.phase = s.phase ∧ t.width = s.width ∧ t.height = s.height ∧ t.pix = s.pix ∧ t.pixCount = s.pixCount ∧
    t.twoTone = s.twoTone ∧ (s.done = false → t.done = false)

/-- 30_encoding.md R88: `WAIT.IDLE` reads STATUS at each of its turns, once at least, and is over at the first read that
returns BUSY = 0. -/
def Obligations.WaitIdleReadsUntilIdle : Prop :=
  ∀ (s : State) (ops : List HostOp), s.hostOps = .waitIdle :: ops → s.errCode.toNat ≤ 4 →
    hostStep s = .next { s with
      port := some (.read s.statusWord .okay)
      hostOps := if s.phase = .idle then ops else .waitIdle :: ops }

/-- 30_encoding.md R87 to R89: the pseudo-instructions expand to the transactions listed there, LOAD and DUMP to one for each
word in turn, a program to those of its lines one after another; each register name stands for its offset (20_memory.md
R54), `PIX[i]` for the word at 0x1000 + 4 i, and `PIXEL(r,g,b,a)` for its packed word (R57). That `WAIT.IDLE` is one host operation, which performs
the repeated reads of STATUS that R88 and R89 list, is the model's reading (log 12). -/
def Obligations.HostProgramsExpand : Prop :=
  encodeProgram [.cmdNop, .cmdDither, .cmdVerify, .clrDone, .clrErr, .waitIdle] =
    [.write 0x008 0x00000000, .write 0x008 0x00000001, .write 0x008 0x00000002, .write 0x00C 0x00000002,
      .write 0x00C 0x00000004, .waitIdle] ∧
  (∀ (t : HostTarget) (v : HostValue) (e : Option Word),
    encodeProgram [.wr t v, .rd t e] = [.write (targetAddr t) (valueWord v), .read (targetAddr t)]) ∧
  (∀ (i j : Nat) (ps : List HostValue),
    (encodeProgram [.load i ps])[j]? = ps[j]?.map fun p => .write (targetAddr (.loc (.pix (i + j)))) (valueWord p)) ∧
  (∀ i j k : Nat, (encodeProgram [.dump i k])[j]? =
    if j < k then some (.read (targetAddr (.loc (.pix (i + j))))) else none) ∧
  (∀ p q : List HostStmt, encodeProgram (p ++ q) = encodeProgram p ++ encodeProgram q) ∧
  [.id, .ctrl, .cmd, .status, .width, .height, .pixCount, .capacity].map (fun l => targetAddr (.loc l)) =
    [0x000, 0x004, 0x008, 0x00C, 0x010, 0x014, 0x018, 0x01C] ∧
  (∀ n i : Nat, Config.legalCapacity n → i < n → (targetAddr (.loc (.pix i))).toNat = 0x1000 + 4 * i) ∧
  (∀ a : Word, targetAddr (.addr a) = a) ∧ (∀ d : Word, valueWord (.num d) = d) ∧
  (∀ r g b a : Byte, (valueWord (.pixel r g b a)).toNat =
    r.toNat + 256 * g.toNat + 65536 * b.toNat + 16777216 * a.toNat)

/-! ### Reset and the whole machine -/

/-- 70_reset_and_hazards.md R180 to R182, 10_state.md R35: a reset event, in any state. The capacity stays, as do the
fields of the environment, and the port holds no response, which is the model's choice (log 1, log 4, log 18). -/
def Obligations.ResetEventSetsEveryRegister : Prop :=
  ∀ (s : State) (ts : List Turn), s.turns = .reset :: ts →
    ∃ t, step s = .next t ∧ t.irqEn = false ∧ t.done = false ∧ t.err = false ∧ t.twoTone = false ∧ t.errCode = 0 ∧
      t.statusWord = 0 ∧ t.width = 0 ∧ t.height = 0 ∧ t.pixCount = 0 ∧ t.phase = .idle ∧ t.irq = false ∧
      (∀ i, t.pix.pixRead i = none) ∧ t.capacity = s.capacity ∧ t.port = none ∧ t.draws = s.draws ∧
      t.hostOps = s.hostOps ∧ t.turns = ts

/-- 70_reset_and_hazards.md R180: a host transaction that overlaps a reset has no effect: the state is that of the reset
alone. The model's reading (log 10): a read or a write is then over, a `WAIT.IDLE` is still the host's next
operation, and with no operation there is nothing to overlap. -/
def Obligations.OverlappedTransactionHasNoEffect : Prop :=
  ∀ (s : State) (ts : List Turn) (ops : List HostOp), s.turns = .resetOverlap :: ts →
    (∀ a d : Word, s.hostOps = .write a d :: ops ∨ s.hostOps = .read a :: ops →
      step s = step { s with turns := .reset :: ts, hostOps := ops }) ∧
    (s.hostOps = .waitIdle :: ops ∨ s.hostOps = [] → step s = step { s with turns := .reset :: ts })

/-- 10_state.md R35: the invariant holds right after reset, for every legal PIX_CAPACITY and for the model's reset state. -/
def Obligations.ResetHasTheInvariant : Prop :=
  Inv State.reset ∧ ∀ n, Config.legalCapacity n → Inv (State.resetWith n)

/-- HEADLINE. Every step keeps the invariant: the pixel RAM stays canonical, inside the window and of whole words
(20_memory.md R53, R56); ERRCODE is a legal code, 0 exactly when ERR = 0 (10_state.md R27); a command in flight
fits and has DONE = 0 (41_commands.md R132, R135); the cursor is at most N, PIXCOUNT shows it, and every pixel it
has passed is two-tone (10_state.md R22, R23, R31, 40_datapath.md R115, R116). -/
def Obligations.StepKeepsTheInvariant : Prop :=
  ∀ s t : State, Inv s → step s = .next t → Inv t

/-- 93_implementation_defined.md U11, U4: from a state with the invariant a step is never refused, and faults only on a read
of an unwritten pixel word. -/
def Obligations.StepStopsOnlyOnUnwrittenReads : Prop :=
  ∀ s : State, Inv s → (∀ r, step s ≠ .refused r) ∧
    ∀ f, step s = .fault f → ∃ r i, f = .unwrittenRead r i ∧ i < s.capacity ∧ s.pix.pixRead i = none

/-- 10_state.md R22, R23: every way a step may change the phase. Only acceptance, by the host's write of a DITHER or VERIFY
word to CMD, leaves IDLE; only a completion step or reset returns to it; the cursor starts at 0 and advances by
exactly 1. -/
def Obligations.PhaseTransitions : Prop :=
  ∀ s t : State, step s = .next t →
    t.phase = s.phase ∨
    (s.phase = .idle ∧ s.gridN ≤ s.capacity ∧ ∃ d, HostNext s (.write 0x008 d) ∧
      ((decode d = .ok .dither ∧ t.phase = .dithering 0) ∨ (decode d = .ok .verify ∧ t.phase = .verifying))) ∨
    (∃ i, i < s.gridN ∧ s.phase = .dithering i ∧ t.phase = .dithering (i + 1)) ∨
    (s.phase = .dithering s.gridN ∧ t.phase = .idle ∧ t.done = true) ∨
    (s.phase = .verifying ∧ t.phase = .idle ∧ t.done = true) ∨
    (t.phase = .idle ∧ ∃ ts, s.turns = .reset :: ts ∨ s.turns = .resetOverlap :: ts)

/-- 10_state.md R27, 20_memory.md R68: DONE is set only by a completion step, which also goes to IDLE; TWO_TONE is set only
by the VERIFY step, with a grid that is loaded and two-tone. -/
def Obligations.OnlyCompletionSetsDone : Prop :=
  ∀ s t : State, step s = .next t →
    (s.done = false → t.done = true →
      (s.phase = .dithering s.gridN ∨ s.phase = .verifying) ∧ t.phase = .idle) ∧
    (s.twoTone = false → t.twoTone = true →
      s.phase = .verifying ∧ t.phase = .idle ∧ TwoToneUpTo s.pix s.gridN)

/-- 10_state.md R31, R23: every way a step may change PIXCOUNT: acceptance of DITHER, by the
host's write of its word to CMD, sets it to 0, a pixel step to the advanced cursor, and reset to 0. -/
def Obligations.PixCountFollowsTheCursor : Prop :=
  ∀ s t : State, step s = .next t →
    t.pixCount = s.pixCount ∨
    (s.phase = .idle ∧ s.gridN ≤ s.capacity ∧ (∃ d, HostNext s (.write 0x008 d) ∧ decode d = .ok .dither) ∧
      t.phase = .dithering 0 ∧ t.pixCount = 0) ∨
    (∃ i, i < s.gridN ∧ s.phase = .dithering i ∧ t.phase = .dithering (i + 1) ∧ t.pixCount = BitVec.ofNat 32 (i + 1)) ∨
    (t.pixCount = 0 ∧ ∃ ts, s.turns = .reset :: ts ∨ s.turns = .resetOverlap :: ts)

/-- 20_memory.md R61 to R63, 70_reset_and_hazards.md R181, R182: every way a step may change the pixel RAM: the host's write
in IDLE of a word to the address of a pixel word, which stores it there, a pixel step, and reset, after which every word is unwritten. -/
def Obligations.PixelRamChangesOnlyByWrites : Prop :=
  ∀ s t : State, step s = .next t →
    t.pix = s.pix ∨
    (s.phase = .idle ∧ t.phase = .idle ∧ ∃ a d i, HostNext s (.write a d) ∧ locate s.capacity a = .ok (.pix i) ∧
      t.pix = s.pix.pixWrite i (unpack d)) ∨
    (∃ i, i < s.gridN ∧ s.phase = .dithering i ∧
      pixelStep s.width.toNat s.height.toNat i s.pix = .ok t.pix) ∨
    ((∀ i, t.pix.pixRead i = none) ∧ ∃ ts, s.turns = .reset :: ts ∨ s.turns = .resetOverlap :: ts)

/-- 10_state.md R34, R29, R30, R32: no step changes PIX_CAPACITY, and while a command is in flight no step but a reset changes
WIDTH or HEIGHT, and so N. -/
def Obligations.GridIsConstantDuringACommand : Prop :=
  ∀ s t : State, step s = .next t →
    t.capacity = s.capacity ∧
    (s.phase ≠ .idle → NoReset (s.turns.take 1) → t.width = s.width ∧ t.height = s.height ∧ t.gridN = s.gridN)

/-- 70_reset_and_hazards.md R190, with the model's choices: with no turn fixed, an enabled engine step is taken and else the
host moves (log 2); with none enabled and nothing to do the step changes nothing (log 3: the spec has no such step). -/
def Obligations.UnfixedTurnsAreFairToTheEngine : Prop :=
  ∀ s : State, s.turns = [] →
    (s.engineEnabled = true → step s = engineStep s) ∧
    (s.engineEnabled = false → step s = hostStep s) ∧
    (s.phase = .idle → s.hostOps = [] → step s = .next s)

/-- HEADLINE. 40_datapath.md R114, R116, R117, 20_memory.md R62: a DITHER command follows the sequential order through every
step. Acceptance begins it; then any step, of the host or of the engine, keeps the pixel RAM what the pixel steps
before the cursor make, in scan order, of the RAM at acceptance. Only the completion step, with the full
sequential result and a two-tone grid, or a reset ends it. -/
def Obligations.EveryStepKeepsTheSequentialOrder : Prop :=
  (∀ s : State, s.phase = .idle → s.gridN ≤ s.capacity →
    ∃ t, exec .dither s = .next t ∧ RunsFrom s.width.toNat s.height.toNat s.pix t) ∧
  ∀ (w h : Nat) (m : Memory) (s t : State), RunsFrom w h m s → step s = .next t →
    RunsFrom w h m t ∨
    (s.phase = .dithering (w * h) ∧ t.phase = .idle ∧ t.done = true ∧ ditherPrefix w h m (w * h) = .ok t.pix ∧
      TwoToneUpTo t.pix (w * h)) ∨
    (t.phase = .idle ∧ ∃ ts, s.turns = .reset :: ts ∨ s.turns = .resetOverlap :: ts)

/-- 20_memory.md R51, R64: what a step is. When it is the host's, by a fixed turn or by default (log 2), it performs the
host's oldest operation, a read, a write or `WAIT.IDLE`, and that operation and turn are over; with no operation
nothing happens (log 3). When it is the engine's, it is an engine step, and that turn is over. -/
def Obligations.StepPerformsTheTurn : Prop :=
  ∀ s : State,
    (∀ a, HostNext s (.read a) →
      step s = memRead a { s with turns := s.turns.tail, hostOps := s.hostOps.tail }) ∧
    (∀ a d, HostNext s (.write a d) →
      step s = memWrite a d { s with turns := s.turns.tail, hostOps := s.hostOps.tail }) ∧
    (HostNext s .waitIdle → step s = hostStep { s with turns := s.turns.tail }) ∧
    (HostMoves s → s.hostOps = [] → step s = .next { s with turns := s.turns.tail }) ∧
    (EngineMoves s → step s = engineStep { s with turns := s.turns.tail })
end

