-- ==== Sys2Proof/Laws/State.lean ====
section
/-! SUPPORT. What each named update does to each field of the state, and to the views BUSY and N. -/

namespace Sys2Proof.Laws

open Sys2Proof.Machine

variable (s : State)

@[simp] theorem raise_irqEn (e : ErrorCause) : (s.raise e).irqEn = s.irqEn := rfl
@[simp] theorem raise_done (e : ErrorCause) : (s.raise e).done = s.done := rfl
@[simp] theorem raise_err (e : ErrorCause) : (s.raise e).err = true := rfl
@[simp] theorem raise_twoTone (e : ErrorCause) : (s.raise e).twoTone = s.twoTone := rfl
@[simp] theorem raise_errCode (e : ErrorCause) : (s.raise e).errCode = if s.err then s.errCode else e.code := rfl
@[simp] theorem raise_width (e : ErrorCause) : (s.raise e).width = s.width := rfl
@[simp] theorem raise_height (e : ErrorCause) : (s.raise e).height = s.height := rfl
@[simp] theorem raise_pixCount (e : ErrorCause) : (s.raise e).pixCount = s.pixCount := rfl
@[simp] theorem raise_phase (e : ErrorCause) : (s.raise e).phase = s.phase := rfl
@[simp] theorem raise_pix (e : ErrorCause) : (s.raise e).pix = s.pix := rfl
@[simp] theorem raise_capacity (e : ErrorCause) : (s.raise e).capacity = s.capacity := rfl
@[simp] theorem raise_port (e : ErrorCause) : (s.raise e).port = s.port := rfl
@[simp] theorem raise_draws (e : ErrorCause) : (s.raise e).draws = s.draws := rfl
@[simp] theorem raise_hostOps (e : ErrorCause) : (s.raise e).hostOps = s.hostOps := rfl
@[simp] theorem raise_turns (e : ErrorCause) : (s.raise e).turns = s.turns := rfl
@[simp] theorem raise_busy (e : ErrorCause) : (s.raise e).busy = s.busy := rfl
@[simp] theorem raise_gridN (e : ErrorCause) : (s.raise e).gridN = s.gridN := rfl

@[simp] theorem acknowledge_irqEn (d : Word) : (s.acknowledge d).irqEn = s.irqEn := rfl
@[simp] theorem acknowledge_done (d : Word) : (s.acknowledge d).done = if d.getLsbD 1 then false else s.done := rfl
@[simp] theorem acknowledge_err (d : Word) : (s.acknowledge d).err = if d.getLsbD 2 then false else s.err := rfl
@[simp] theorem acknowledge_twoTone (d : Word) : (s.acknowledge d).twoTone = s.twoTone := rfl
@[simp] theorem acknowledge_errCode (d : Word) : (s.acknowledge d).errCode = if d.getLsbD 2 then 0 else s.errCode := rfl
@[simp] theorem acknowledge_width (d : Word) : (s.acknowledge d).width = s.width := rfl
@[simp] theorem acknowledge_height (d : Word) : (s.acknowledge d).height = s.height := rfl
@[simp] theorem acknowledge_pixCount (d : Word) : (s.acknowledge d).pixCount = s.pixCount := rfl
@[simp] theorem acknowledge_phase (d : Word) : (s.acknowledge d).phase = s.phase := rfl
@[simp] theorem acknowledge_pix (d : Word) : (s.acknowledge d).pix = s.pix := rfl
@[simp] theorem acknowledge_capacity (d : Word) : (s.acknowledge d).capacity = s.capacity := rfl
@[simp] theorem acknowledge_port (d : Word) : (s.acknowledge d).port = s.port := rfl
@[simp] theorem acknowledge_draws (d : Word) : (s.acknowledge d).draws = s.draws := rfl
@[simp] theorem acknowledge_hostOps (d : Word) : (s.acknowledge d).hostOps = s.hostOps := rfl
@[simp] theorem acknowledge_turns (d : Word) : (s.acknowledge d).turns = s.turns := rfl
@[simp] theorem acknowledge_busy (d : Word) : (s.acknowledge d).busy = s.busy := rfl
@[simp] theorem acknowledge_gridN (d : Word) : (s.acknowledge d).gridN = s.gridN := rfl

@[simp] theorem respond_irqEn (r : PortOut) : (s.respond r).irqEn = s.irqEn := rfl
@[simp] theorem respond_done (r : PortOut) : (s.respond r).done = s.done := rfl
@[simp] theorem respond_err (r : PortOut) : (s.respond r).err = s.err := rfl
@[simp] theorem respond_twoTone (r : PortOut) : (s.respond r).twoTone = s.twoTone := rfl
@[simp] theorem respond_errCode (r : PortOut) : (s.respond r).errCode = s.errCode := rfl
@[simp] theorem respond_width (r : PortOut) : (s.respond r).width = s.width := rfl
@[simp] theorem respond_height (r : PortOut) : (s.respond r).height = s.height := rfl
@[simp] theorem respond_pixCount (r : PortOut) : (s.respond r).pixCount = s.pixCount := rfl
@[simp] theorem respond_phase (r : PortOut) : (s.respond r).phase = s.phase := rfl
@[simp] theorem respond_pix (r : PortOut) : (s.respond r).pix = s.pix := rfl
@[simp] theorem respond_capacity (r : PortOut) : (s.respond r).capacity = s.capacity := rfl
@[simp] theorem respond_port (r : PortOut) : (s.respond r).port = some r := rfl
@[simp] theorem respond_draws (r : PortOut) : (s.respond r).draws = s.draws := rfl
@[simp] theorem respond_hostOps (r : PortOut) : (s.respond r).hostOps = s.hostOps := rfl
@[simp] theorem respond_turns (r : PortOut) : (s.respond r).turns = s.turns := rfl
@[simp] theorem respond_busy (r : PortOut) : (s.respond r).busy = s.busy := rfl
@[simp] theorem respond_gridN (r : PortOut) : (s.respond r).gridN = s.gridN := rfl

@[simp] theorem takeDraw_irqEn : (s.takeDraw).irqEn = s.irqEn := rfl
@[simp] theorem takeDraw_done : (s.takeDraw).done = s.done := rfl
@[simp] theorem takeDraw_err : (s.takeDraw).err = s.err := rfl
@[simp] theorem takeDraw_twoTone : (s.takeDraw).twoTone = s.twoTone := rfl
@[simp] theorem takeDraw_errCode : (s.takeDraw).errCode = s.errCode := rfl
@[simp] theorem takeDraw_width : (s.takeDraw).width = s.width := rfl
@[simp] theorem takeDraw_height : (s.takeDraw).height = s.height := rfl
@[simp] theorem takeDraw_pixCount : (s.takeDraw).pixCount = s.pixCount := rfl
@[simp] theorem takeDraw_phase : (s.takeDraw).phase = s.phase := rfl
@[simp] theorem takeDraw_pix : (s.takeDraw).pix = s.pix := rfl
@[simp] theorem takeDraw_capacity : (s.takeDraw).capacity = s.capacity := rfl
@[simp] theorem takeDraw_port : (s.takeDraw).port = s.port := rfl
@[simp] theorem takeDraw_draws : (s.takeDraw).draws = s.draws + 1 := rfl
@[simp] theorem takeDraw_hostOps : (s.takeDraw).hostOps = s.hostOps := rfl
@[simp] theorem takeDraw_turns : (s.takeDraw).turns = s.turns := rfl
@[simp] theorem takeDraw_busy : (s.takeDraw).busy = s.busy := rfl
@[simp] theorem takeDraw_gridN : (s.takeDraw).gridN = s.gridN := rfl

@[simp] theorem setIrqEn_irqEn (b : Bool) : (s.setIrqEn b).irqEn = b := rfl
@[simp] theorem setIrqEn_done (b : Bool) : (s.setIrqEn b).done = s.done := rfl
@[simp] theorem setIrqEn_err (b : Bool) : (s.setIrqEn b).err = s.err := rfl
@[simp] theorem setIrqEn_twoTone (b : Bool) : (s.setIrqEn b).twoTone = s.twoTone := rfl
@[simp] theorem setIrqEn_errCode (b : Bool) : (s.setIrqEn b).errCode = s.errCode := rfl
@[simp] theorem setIrqEn_width (b : Bool) : (s.setIrqEn b).width = s.width := rfl
@[simp] theorem setIrqEn_height (b : Bool) : (s.setIrqEn b).height = s.height := rfl
@[simp] theorem setIrqEn_pixCount (b : Bool) : (s.setIrqEn b).pixCount = s.pixCount := rfl
@[simp] theorem setIrqEn_phase (b : Bool) : (s.setIrqEn b).phase = s.phase := rfl
@[simp] theorem setIrqEn_pix (b : Bool) : (s.setIrqEn b).pix = s.pix := rfl
@[simp] theorem setIrqEn_capacity (b : Bool) : (s.setIrqEn b).capacity = s.capacity := rfl
@[simp] theorem setIrqEn_port (b : Bool) : (s.setIrqEn b).port = s.port := rfl
@[simp] theorem setIrqEn_draws (b : Bool) : (s.setIrqEn b).draws = s.draws := rfl
@[simp] theorem setIrqEn_hostOps (b : Bool) : (s.setIrqEn b).hostOps = s.hostOps := rfl
@[simp] theorem setIrqEn_turns (b : Bool) : (s.setIrqEn b).turns = s.turns := rfl
@[simp] theorem setIrqEn_busy (b : Bool) : (s.setIrqEn b).busy = s.busy := rfl
@[simp] theorem setIrqEn_gridN (b : Bool) : (s.setIrqEn b).gridN = s.gridN := rfl

@[simp] theorem setWidth_irqEn (d : Word) : (s.setWidth d).irqEn = s.irqEn := rfl
@[simp] theorem setWidth_done (d : Word) : (s.setWidth d).done = s.done := rfl
@[simp] theorem setWidth_err (d : Word) : (s.setWidth d).err = s.err := rfl
@[simp] theorem setWidth_twoTone (d : Word) : (s.setWidth d).twoTone = s.twoTone := rfl
@[simp] theorem setWidth_errCode (d : Word) : (s.setWidth d).errCode = s.errCode := rfl
@[simp] theorem setWidth_width (d : Word) : (s.setWidth d).width = d := rfl
@[simp] theorem setWidth_height (d : Word) : (s.setWidth d).height = s.height := rfl
@[simp] theorem setWidth_pixCount (d : Word) : (s.setWidth d).pixCount = s.pixCount := rfl
@[simp] theorem setWidth_phase (d : Word) : (s.setWidth d).phase = s.phase := rfl
@[simp] theorem setWidth_pix (d : Word) : (s.setWidth d).pix = s.pix := rfl
@[simp] theorem setWidth_capacity (d : Word) : (s.setWidth d).capacity = s.capacity := rfl
@[simp] theorem setWidth_port (d : Word) : (s.setWidth d).port = s.port := rfl
@[simp] theorem setWidth_draws (d : Word) : (s.setWidth d).draws = s.draws := rfl
@[simp] theorem setWidth_hostOps (d : Word) : (s.setWidth d).hostOps = s.hostOps := rfl
@[simp] theorem setWidth_turns (d : Word) : (s.setWidth d).turns = s.turns := rfl
@[simp] theorem setWidth_busy (d : Word) : (s.setWidth d).busy = s.busy := rfl

@[simp] theorem setHeight_irqEn (d : Word) : (s.setHeight d).irqEn = s.irqEn := rfl
@[simp] theorem setHeight_done (d : Word) : (s.setHeight d).done = s.done := rfl
@[simp] theorem setHeight_err (d : Word) : (s.setHeight d).err = s.err := rfl
@[simp] theorem setHeight_twoTone (d : Word) : (s.setHeight d).twoTone = s.twoTone := rfl
@[simp] theorem setHeight_errCode (d : Word) : (s.setHeight d).errCode = s.errCode := rfl
@[simp] theorem setHeight_width (d : Word) : (s.setHeight d).width = s.width := rfl
@[simp] theorem setHeight_height (d : Word) : (s.setHeight d).height = d := rfl
@[simp] theorem setHeight_pixCount (d : Word) : (s.setHeight d).pixCount = s.pixCount := rfl
@[simp] theorem setHeight_phase (d : Word) : (s.setHeight d).phase = s.phase := rfl
@[simp] theorem setHeight_pix (d : Word) : (s.setHeight d).pix = s.pix := rfl
@[simp] theorem setHeight_capacity (d : Word) : (s.setHeight d).capacity = s.capacity := rfl
@[simp] theorem setHeight_port (d : Word) : (s.setHeight d).port = s.port := rfl
@[simp] theorem setHeight_draws (d : Word) : (s.setHeight d).draws = s.draws := rfl
@[simp] theorem setHeight_hostOps (d : Word) : (s.setHeight d).hostOps = s.hostOps := rfl
@[simp] theorem setHeight_turns (d : Word) : (s.setHeight d).turns = s.turns := rfl
@[simp] theorem setHeight_busy (d : Word) : (s.setHeight d).busy = s.busy := rfl

@[simp] theorem setPix_irqEn (m : Memory) : (s.setPix m).irqEn = s.irqEn := rfl
@[simp] theorem setPix_done (m : Memory) : (s.setPix m).done = s.done := rfl
@[simp] theorem setPix_err (m : Memory) : (s.setPix m).err = s.err := rfl
@[simp] theorem setPix_twoTone (m : Memory) : (s.setPix m).twoTone = s.twoTone := rfl
@[simp] theorem setPix_errCode (m : Memory) : (s.setPix m).errCode = s.errCode := rfl
@[simp] theorem setPix_width (m : Memory) : (s.setPix m).width = s.width := rfl
@[simp] theorem setPix_height (m : Memory) : (s.setPix m).height = s.height := rfl
@[simp] theorem setPix_pixCount (m : Memory) : (s.setPix m).pixCount = s.pixCount := rfl
@[simp] theorem setPix_phase (m : Memory) : (s.setPix m).phase = s.phase := rfl
@[simp] theorem setPix_pix (m : Memory) : (s.setPix m).pix = m := rfl
@[simp] theorem setPix_capacity (m : Memory) : (s.setPix m).capacity = s.capacity := rfl
@[simp] theorem setPix_port (m : Memory) : (s.setPix m).port = s.port := rfl
@[simp] theorem setPix_draws (m : Memory) : (s.setPix m).draws = s.draws := rfl
@[simp] theorem setPix_hostOps (m : Memory) : (s.setPix m).hostOps = s.hostOps := rfl
@[simp] theorem setPix_turns (m : Memory) : (s.setPix m).turns = s.turns := rfl
@[simp] theorem setPix_busy (m : Memory) : (s.setPix m).busy = s.busy := rfl
@[simp] theorem setPix_gridN (m : Memory) : (s.setPix m).gridN = s.gridN := rfl

@[simp] theorem setHostOps_irqEn (ops : List HostOp) : (s.setHostOps ops).irqEn = s.irqEn := rfl
@[simp] theorem setHostOps_done (ops : List HostOp) : (s.setHostOps ops).done = s.done := rfl
@[simp] theorem setHostOps_err (ops : List HostOp) : (s.setHostOps ops).err = s.err := rfl
@[simp] theorem setHostOps_twoTone (ops : List HostOp) : (s.setHostOps ops).twoTone = s.twoTone := rfl
@[simp] theorem setHostOps_errCode (ops : List HostOp) : (s.setHostOps ops).errCode = s.errCode := rfl
@[simp] theorem setHostOps_width (ops : List HostOp) : (s.setHostOps ops).width = s.width := rfl
@[simp] theorem setHostOps_height (ops : List HostOp) : (s.setHostOps ops).height = s.height := rfl
@[simp] theorem setHostOps_pixCount (ops : List HostOp) : (s.setHostOps ops).pixCount = s.pixCount := rfl
@[simp] theorem setHostOps_phase (ops : List HostOp) : (s.setHostOps ops).phase = s.phase := rfl
@[simp] theorem setHostOps_pix (ops : List HostOp) : (s.setHostOps ops).pix = s.pix := rfl
@[simp] theorem setHostOps_capacity (ops : List HostOp) : (s.setHostOps ops).capacity = s.capacity := rfl
@[simp] theorem setHostOps_port (ops : List HostOp) : (s.setHostOps ops).port = s.port := rfl
@[simp] theorem setHostOps_draws (ops : List HostOp) : (s.setHostOps ops).draws = s.draws := rfl
@[simp] theorem setHostOps_hostOps (ops : List HostOp) : (s.setHostOps ops).hostOps = ops := rfl
@[simp] theorem setHostOps_turns (ops : List HostOp) : (s.setHostOps ops).turns = s.turns := rfl
@[simp] theorem setHostOps_busy (ops : List HostOp) : (s.setHostOps ops).busy = s.busy := rfl
@[simp] theorem setHostOps_gridN (ops : List HostOp) : (s.setHostOps ops).gridN = s.gridN := rfl

@[simp] theorem setTurns_irqEn (ts : List Turn) : (s.setTurns ts).irqEn = s.irqEn := rfl
@[simp] theorem setTurns_done (ts : List Turn) : (s.setTurns ts).done = s.done := rfl
@[simp] theorem setTurns_err (ts : List Turn) : (s.setTurns ts).err = s.err := rfl
@[simp] theorem setTurns_twoTone (ts : List Turn) : (s.setTurns ts).twoTone = s.twoTone := rfl
@[simp] theorem setTurns_errCode (ts : List Turn) : (s.setTurns ts).errCode = s.errCode := rfl
@[simp] theorem setTurns_width (ts : List Turn) : (s.setTurns ts).width = s.width := rfl
@[simp] theorem setTurns_height (ts : List Turn) : (s.setTurns ts).height = s.height := rfl
@[simp] theorem setTurns_pixCount (ts : List Turn) : (s.setTurns ts).pixCount = s.pixCount := rfl
@[simp] theorem setTurns_phase (ts : List Turn) : (s.setTurns ts).phase = s.phase := rfl
@[simp] theorem setTurns_pix (ts : List Turn) : (s.setTurns ts).pix = s.pix := rfl
@[simp] theorem setTurns_capacity (ts : List Turn) : (s.setTurns ts).capacity = s.capacity := rfl
@[simp] theorem setTurns_port (ts : List Turn) : (s.setTurns ts).port = s.port := rfl
@[simp] theorem setTurns_draws (ts : List Turn) : (s.setTurns ts).draws = s.draws := rfl
@[simp] theorem setTurns_hostOps (ts : List Turn) : (s.setTurns ts).hostOps = s.hostOps := rfl
@[simp] theorem setTurns_turns (ts : List Turn) : (s.setTurns ts).turns = ts := rfl
@[simp] theorem setTurns_busy (ts : List Turn) : (s.setTurns ts).busy = s.busy := rfl
@[simp] theorem setTurns_gridN (ts : List Turn) : (s.setTurns ts).gridN = s.gridN := rfl

@[simp] theorem resetEvent_irqEn : (s.resetEvent).irqEn = false := rfl
@[simp] theorem resetEvent_done : (s.resetEvent).done = false := rfl
@[simp] theorem resetEvent_err : (s.resetEvent).err = false := rfl
@[simp] theorem resetEvent_twoTone : (s.resetEvent).twoTone = false := rfl
@[simp] theorem resetEvent_errCode : (s.resetEvent).errCode = 0 := rfl
@[simp] theorem resetEvent_width : (s.resetEvent).width = 0 := rfl
@[simp] theorem resetEvent_height : (s.resetEvent).height = 0 := rfl
@[simp] theorem resetEvent_pixCount : (s.resetEvent).pixCount = 0 := rfl
@[simp] theorem resetEvent_phase : (s.resetEvent).phase = .idle := rfl
@[simp] theorem resetEvent_pix : (s.resetEvent).pix = [] := rfl
@[simp] theorem resetEvent_capacity : (s.resetEvent).capacity = s.capacity := rfl
@[simp] theorem resetEvent_port : (s.resetEvent).port = none := rfl
@[simp] theorem resetEvent_draws : (s.resetEvent).draws = s.draws := rfl
@[simp] theorem resetEvent_hostOps : (s.resetEvent).hostOps = s.hostOps := rfl
@[simp] theorem resetEvent_turns : (s.resetEvent).turns = s.turns := rfl
@[simp] theorem resetEvent_busy : (s.resetEvent).busy = false := rfl

@[simp] theorem acceptDither_irqEn : (s.acceptDither).irqEn = s.irqEn := rfl
@[simp] theorem acceptDither_done : (s.acceptDither).done = false := rfl
@[simp] theorem acceptDither_err : (s.acceptDither).err = s.err := rfl
@[simp] theorem acceptDither_twoTone : (s.acceptDither).twoTone = false := rfl
@[simp] theorem acceptDither_errCode : (s.acceptDither).errCode = s.errCode := rfl
@[simp] theorem acceptDither_width : (s.acceptDither).width = s.width := rfl
@[simp] theorem acceptDither_height : (s.acceptDither).height = s.height := rfl
@[simp] theorem acceptDither_pixCount : (s.acceptDither).pixCount = 0 := rfl
@[simp] theorem acceptDither_phase : (s.acceptDither).phase = .dithering 0 := rfl
@[simp] theorem acceptDither_pix : (s.acceptDither).pix = s.pix := rfl
@[simp] theorem acceptDither_capacity : (s.acceptDither).capacity = s.capacity := rfl
@[simp] theorem acceptDither_port : (s.acceptDither).port = s.port := rfl
@[simp] theorem acceptDither_draws : (s.acceptDither).draws = s.draws := rfl
@[simp] theorem acceptDither_hostOps : (s.acceptDither).hostOps = s.hostOps := rfl
@[simp] theorem acceptDither_turns : (s.acceptDither).turns = s.turns := rfl
@[simp] theorem acceptDither_busy : (s.acceptDither).busy = true := rfl
@[simp] theorem acceptDither_gridN : (s.acceptDither).gridN = s.gridN := rfl

@[simp] theorem acceptVerify_irqEn : (s.acceptVerify).irqEn = s.irqEn := rfl
@[simp] theorem acceptVerify_done : (s.acceptVerify).done = false := rfl
@[simp] theorem acceptVerify_err : (s.acceptVerify).err = s.err := rfl
@[simp] theorem acceptVerify_twoTone : (s.acceptVerify).twoTone = s.twoTone := rfl
@[simp] theorem acceptVerify_errCode : (s.acceptVerify).errCode = s.errCode := rfl
@[simp] theorem acceptVerify_width : (s.acceptVerify).width = s.width := rfl
@[simp] theorem acceptVerify_height : (s.acceptVerify).height = s.height := rfl
@[simp] theorem acceptVerify_pixCount : (s.acceptVerify).pixCount = s.pixCount := rfl
@[simp] theorem acceptVerify_phase : (s.acceptVerify).phase = .verifying := rfl
@[simp] theorem acceptVerify_pix : (s.acceptVerify).pix = s.pix := rfl
@[simp] theorem acceptVerify_capacity : (s.acceptVerify).capacity = s.capacity := rfl
@[simp] theorem acceptVerify_port : (s.acceptVerify).port = s.port := rfl
@[simp] theorem acceptVerify_draws : (s.acceptVerify).draws = s.draws := rfl
@[simp] theorem acceptVerify_hostOps : (s.acceptVerify).hostOps = s.hostOps := rfl
@[simp] theorem acceptVerify_turns : (s.acceptVerify).turns = s.turns := rfl
@[simp] theorem acceptVerify_busy : (s.acceptVerify).busy = true := rfl
@[simp] theorem acceptVerify_gridN : (s.acceptVerify).gridN = s.gridN := rfl

@[simp] theorem advance_irqEn (i : Nat) (m : Memory) : (s.advance i m).irqEn = s.irqEn := rfl
@[simp] theorem advance_done (i : Nat) (m : Memory) : (s.advance i m).done = s.done := rfl
@[simp] theorem advance_err (i : Nat) (m : Memory) : (s.advance i m).err = s.err := rfl
@[simp] theorem advance_twoTone (i : Nat) (m : Memory) : (s.advance i m).twoTone = s.twoTone := rfl
@[simp] theorem advance_errCode (i : Nat) (m : Memory) : (s.advance i m).errCode = s.errCode := rfl
@[simp] theorem advance_width (i : Nat) (m : Memory) : (s.advance i m).width = s.width := rfl
@[simp] theorem advance_height (i : Nat) (m : Memory) : (s.advance i m).height = s.height := rfl
@[simp] theorem advance_pixCount (i : Nat) (m : Memory) : (s.advance i m).pixCount = BitVec.ofNat 32 (i + 1) := rfl
@[simp] theorem advance_phase (i : Nat) (m : Memory) : (s.advance i m).phase = .dithering (i + 1) := rfl
@[simp] theorem advance_pix (i : Nat) (m : Memory) : (s.advance i m).pix = m := rfl
@[simp] theorem advance_capacity (i : Nat) (m : Memory) : (s.advance i m).capacity = s.capacity := rfl
@[simp] theorem advance_port (i : Nat) (m : Memory) : (s.advance i m).port = s.port := rfl
@[simp] theorem advance_draws (i : Nat) (m : Memory) : (s.advance i m).draws = s.draws := rfl
@[simp] theorem advance_hostOps (i : Nat) (m : Memory) : (s.advance i m).hostOps = s.hostOps := rfl
@[simp] theorem advance_turns (i : Nat) (m : Memory) : (s.advance i m).turns = s.turns := rfl
@[simp] theorem advance_busy (i : Nat) (m : Memory) : (s.advance i m).busy = true := rfl
@[simp] theorem advance_gridN (i : Nat) (m : Memory) : (s.advance i m).gridN = s.gridN := rfl

@[simp] theorem completeDither_irqEn : (s.completeDither).irqEn = s.irqEn := rfl
@[simp] theorem completeDither_done : (s.completeDither).done = true := rfl
@[simp] theorem completeDither_err : (s.completeDither).err = s.err := rfl
@[simp] theorem completeDither_twoTone : (s.completeDither).twoTone = s.twoTone := rfl
@[simp] theorem completeDither_errCode : (s.completeDither).errCode = s.errCode := rfl
@[simp] theorem completeDither_width : (s.completeDither).width = s.width := rfl
@[simp] theorem completeDither_height : (s.completeDither).height = s.height := rfl
@[simp] theorem completeDither_pixCount : (s.completeDither).pixCount = s.pixCount := rfl
@[simp] theorem completeDither_phase : (s.completeDither).phase = .idle := rfl
@[simp] theorem completeDither_pix : (s.completeDither).pix = s.pix := rfl
@[simp] theorem completeDither_capacity : (s.completeDither).capacity = s.capacity := rfl
@[simp] theorem completeDither_port : (s.completeDither).port = s.port := rfl
@[simp] theorem completeDither_draws : (s.completeDither).draws = s.draws := rfl
@[simp] theorem completeDither_hostOps : (s.completeDither).hostOps = s.hostOps := rfl
@[simp] theorem completeDither_turns : (s.completeDither).turns = s.turns := rfl
@[simp] theorem completeDither_busy : (s.completeDither).busy = false := rfl
@[simp] theorem completeDither_gridN : (s.completeDither).gridN = s.gridN := rfl

@[simp] theorem completeVerify_irqEn (b : Bool) : (s.completeVerify b).irqEn = s.irqEn := rfl
@[simp] theorem completeVerify_done (b : Bool) : (s.completeVerify b).done = true := rfl
@[simp] theorem completeVerify_err (b : Bool) : (s.completeVerify b).err = s.err := rfl
@[simp] theorem completeVerify_twoTone (b : Bool) : (s.completeVerify b).twoTone = b := rfl
@[simp] theorem completeVerify_errCode (b : Bool) : (s.completeVerify b).errCode = s.errCode := rfl
@[simp] theorem completeVerify_width (b : Bool) : (s.completeVerify b).width = s.width := rfl
@[simp] theorem completeVerify_height (b : Bool) : (s.completeVerify b).height = s.height := rfl
@[simp] theorem completeVerify_pixCount (b : Bool) : (s.completeVerify b).pixCount = s.pixCount := rfl
@[simp] theorem completeVerify_phase (b : Bool) : (s.completeVerify b).phase = .idle := rfl
@[simp] theorem completeVerify_pix (b : Bool) : (s.completeVerify b).pix = s.pix := rfl
@[simp] theorem completeVerify_capacity (b : Bool) : (s.completeVerify b).capacity = s.capacity := rfl
@[simp] theorem completeVerify_port (b : Bool) : (s.completeVerify b).port = s.port := rfl
@[simp] theorem completeVerify_draws (b : Bool) : (s.completeVerify b).draws = s.draws := rfl
@[simp] theorem completeVerify_hostOps (b : Bool) : (s.completeVerify b).hostOps = s.hostOps := rfl
@[simp] theorem completeVerify_turns (b : Bool) : (s.completeVerify b).turns = s.turns := rfl
@[simp] theorem completeVerify_busy (b : Bool) : (s.completeVerify b).busy = false := rfl
@[simp] theorem completeVerify_gridN (b : Bool) : (s.completeVerify b).gridN = s.gridN := rfl

theorem resetEvent_gridN : (s.resetEvent).gridN = 0 := rfl

theorem busy_eq_false_iff : s.busy = false ↔ s.phase = .idle := by simp [State.busy]

theorem busy_eq_true_iff : s.busy = true ↔ s.phase ≠ .idle := by simp [State.busy]

theorem cursor_eq_some_iff (i : Nat) : s.cursor = some i ↔ s.phase = .dithering i := by
  cases h : s.phase <;> simp [State.cursor, h]

end Sys2Proof.Laws
end

