-- ==== Sys2Proof/Laws/Memory.lean ====
section
/-! SUPPORT. The laws of the pixel RAM: a read after a write, the canonical form, and whole words. -/

namespace Sys2Proof.Laws

open Sys2Proof.Machine

/-- A byte written is read back, and every other byte reads as before. -/
theorem readByte_writeByte (m : Memory) (a b : Nat) (v : Byte) :
    (m.writeByte a v).readByte b = if a = b then some v else m.readByte b := by
  induction m with
  | nil => simp [Memory.writeByte, Memory.readByte]
  | cons x m ih =>
    obtain ⟨k, w⟩ := x
    by_cases h1 : a < k
    · simp [Memory.writeByte, Memory.readByte, h1]
    · by_cases h2 : a = k
      · subst h2; by_cases h : a = b <;> simp [Memory.writeByte, Memory.readByte, h]
      · by_cases h : k = b
        · subst h; simp [Memory.writeByte, Memory.readByte, h1, h2]
        · simp [Memory.writeByte, Memory.readByte, h1, h2, h, ih]

/-- The addresses a write leaves listed. -/
theorem mem_writeByte {m : Memory} {a : Nat} {v : Byte} {x : Host.Cell} (h : x ∈ m.writeByte a v) :
    x = (a, v) ∨ x ∈ m := by
  induction m with
  | nil => simpa [Memory.writeByte] using h
  | cons y m ih =>
    obtain ⟨k, w⟩ := y
    simp only [Memory.writeByte] at h
    split_ifs at h with h1 h2 <;> simp only [List.mem_cons] at h ⊢ <;> tauto

/-- A byte write keeps the canonical form. -/
theorem writeByte_wf {m : Memory} (a : Nat) (v : Byte) (h : m.wf) : (m.writeByte a v).wf := by
  refine ⟨?_, fun x _ => by simp [Memory.unlisted]⟩
  obtain ⟨h, -⟩ := h
  induction m with
  | nil => simp [Memory.writeByte]
  | cons y m ih =>
    obtain ⟨k, w⟩ := y
    obtain ⟨hk, hm⟩ := List.pairwise_cons.1 h
    simp only [Memory.writeByte]
    split_ifs with h1 h2
    · exact List.pairwise_cons.2 ⟨fun x hx => by
        rcases List.mem_cons.1 hx with rfl | hx
        · exact h1
        · exact h1.trans (hk x hx), h⟩
    · subst h2; exact List.pairwise_cons.2 ⟨hk, hm⟩
    · refine List.pairwise_cons.2 ⟨fun x hx => ?_, ih hm⟩
      rcases mem_writeByte hx with rfl | hx
      · show k < a; omega
      · exact hk x hx

/-- A listed byte is read, in a canonical memory. -/
theorem readByte_of_mem {m : Memory} (h : m.wf) {x : Host.Cell} (hx : x ∈ m) : m.readByte x.1 = some x.2 := by
  obtain ⟨h, -⟩ := h
  induction m with
  | nil => cases hx
  | cons y m ih =>
    obtain ⟨hk, hm⟩ := List.pairwise_cons.1 h
    rcases List.mem_cons.1 hx with rfl | hx
    · simp [Memory.readByte]
    · simp [Memory.readByte, (hk x hx).ne, ih hx hm]

/-- A byte that is read is listed. -/
theorem mem_of_readByte {m : Memory} {a : Nat} {v : Byte} (h : m.readByte a = some v) : (a, v) ∈ m := by
  induction m with
  | nil => simp [Memory.readByte, Memory.unlisted] at h
  | cons y m ih =>
    obtain ⟨k, w⟩ := y
    by_cases hk : k = a
    · subst hk; simp [Memory.readByte] at h; simp [h]
    · simp [Memory.readByte, hk] at h; exact List.mem_cons_of_mem _ (ih h)

/-- Canonical memories that read alike are equal data. -/
theorem memory_ext {m m' : Memory} (h : m.wf) (h' : m'.wf) (hr : ∀ a, m.readByte a = m'.readByte a) : m = m' := by
  have hs : ∀ {m : Memory}, m.wf → m.Pairwise (fun x y : Host.Cell => x.1 < y.1) := fun h => h.1
  refine List.Perm.eq_of_pairwise (fun x y _ _ h1 h2 => absurd (h1.trans h2) (lt_irrefl _)) (hs h) (hs h') ?_
  refine (List.perm_ext_iff_of_nodup ((hs h).imp fun {x y} hxy e => ?_) ((hs h').imp fun {x y} hxy e => ?_)).2 fun x => ?_
  · subst e; exact lt_irrefl _ hxy
  · subst e; exact lt_irrefl _ hxy
  · exact ⟨fun hx => mem_of_readByte ((hr x.1).symm.trans (readByte_of_mem h hx)),
      fun hx => mem_of_readByte ((hr x.1).trans (readByte_of_mem h' hx))⟩

/-- The byte a pixel write leaves at an address: the channel, within the word; as before, outside it. -/
theorem readByte_pixWrite (m : Memory) (i a : Nat) (p : Pixel) :
    (m.pixWrite i p).readByte a =
      if inWord i a then some (laneOf p (a - channelAddr i 0)) else m.readByte a := by
  simp only [Memory.pixWrite, readByte_writeByte]
  have hne : ∀ {c d}, c ≠ d → channelAddr i c ≠ channelAddr i d := fun h e => h (by simpa [channelAddr] using e)
  by_cases h : inWord i a
  · obtain ⟨c, hc, rfl⟩ : ∃ c, c < 4 ∧ a = channelAddr i c := by
      refine ⟨a - channelAddr i 0, ?_⟩
      simp only [inWord, channelAddr] at h ⊢; omega
    have hs : channelAddr i c - channelAddr i 0 = c := by simp [channelAddr]
    rw [if_pos h, hs]
    interval_cases c <;> simp [laneOf, hne]
  · have h3 : ∀ c, c < 4 → channelAddr i c ≠ a := fun c hc e => h (e ▸ by
      simp only [inWord, channelAddr]; omega)
    rw [if_neg h, if_neg (h3 3 (by omega)), if_neg (h3 2 (by omega)), if_neg (h3 1 (by omega)), if_neg (h3 0 (by omega))]

/-- The address of a channel is in its own word and in no other. -/
theorem inWord_channelAddr {i j c : Nat} (hc : c < 4) : inWord i (channelAddr j c) ↔ i = j := by
  simp only [inWord, channelAddr]; omega

/-- A pixel read is read channel by channel. -/
theorem pixRead_eq_some {m : Memory} {i : Nat} {p : Pixel} :
    m.pixRead i = some p ↔ ∀ c, c < 4 → m.readByte (channelAddr i c) = some (laneOf p c) := by
  constructor
  · intro h c hc
    unfold Memory.pixRead at h
    split at h
    · cases h; interval_cases c <;> simpa [laneOf]
    · cases h
  · intro h
    simp [Memory.pixRead, h 0 (by omega), h 1 (by omega), h 2 (by omega), h 3 (by omega), laneOf]

/-- A pixel read depends only on the word's own bytes. -/
theorem pixRead_congr {m m' : Memory} {i : Nat}
    (h : ∀ c, c < 4 → m.readByte (channelAddr i c) = m'.readByte (channelAddr i c)) : m.pixRead i = m'.pixRead i := by
  simp [Memory.pixRead, h 0 (by omega), h 1 (by omega), h 2 (by omega), h 3 (by omega)]

/-- A pixel written is read back, and every other word reads as before. -/
theorem pixRead_pixWrite (m : Memory) (i j : Nat) (p : Pixel) :
    (m.pixWrite i p).pixRead j = if i = j then some p else m.pixRead j := by
  split_ifs with h
  · subst h
    refine pixRead_eq_some.2 fun c hc => ?_
    rw [readByte_pixWrite, if_pos ((inWord_channelAddr hc).2 rfl)]
    simp [channelAddr]
  · refine pixRead_congr fun c hc => ?_
    rw [readByte_pixWrite, if_neg (mt (inWord_channelAddr hc).1 h)]

/-- A pixel write keeps the canonical form. -/
theorem pixWrite_wf {m : Memory} (i : Nat) (p : Pixel) (h : m.wf) : (m.pixWrite i p).wf :=
  writeByte_wf _ _ (writeByte_wf _ _ (writeByte_wf _ _ (writeByte_wf _ _ h)))

/-- A written word stays written through any write. -/
theorem written_pixWrite {m : Memory} {i j : Nat} (p : Pixel) (h : Written m j) : Written (m.pixWrite i p) j := by
  unfold Written at *; rw [pixRead_pixWrite]; split_ifs <;> simp [h]

/-- The memory's invariant is kept by a write to a word of the RAM. -/
theorem pixWrite_memoryInv {n : Nat} {m : Memory} {i : Nat} (p : Pixel) (hi : i < n) (h : MemoryInv n m) :
    MemoryInv n (m.pixWrite i p) := by
  obtain ⟨hw, hr, hc⟩ := h
  have hcase : ∀ x ∈ m.pixWrite i p, inWord i x.1 ∨ x ∈ m := fun x hx => by
    have hx' := readByte_of_mem (pixWrite_wf i p hw) hx
    rw [readByte_pixWrite] at hx'
    split_ifs at hx' with h
    · exact .inl h
    · exact .inr (mem_of_readByte hx')
  refine ⟨pixWrite_wf i p hw, fun x hx => ?_, fun x hx => ?_⟩
  · rcases hcase x hx with h | h
    · simp only [inWord, channelAddr] at h ⊢; omega
    · exact hr x h
  · rcases hcase x hx with h | h
    · have : (x.1 - 0x1000) / 4 = i := by
        simp only [inWord, channelAddr] at h ⊢; omega
      rw [this]; simp [Written, pixRead_pixWrite]
    · exact written_pixWrite p (hc x h)

/-- An empty RAM has the memory's invariant. -/
theorem nil_memoryInv (n : Nat) : MemoryInv n [] := by simp [MemoryInv, Memory.wf]

end Sys2Proof.Laws
end

