-- ==== Sys2Proof/Laws/Ops.lean ====
section
/-! SUPPORT. What each shared operation can do, said once: issuing a command, DIFFUSE, the pixel step and the
two-tone scan. -/

namespace Sys2Proof.Laws

open Sys2Proof.Machine

theorem issue_of_busy {f : State → State} {s : State} (h : s.busy = true) : issue f s = .next (s.raise .busyCmd) := by
  simp [issue, h]

theorem issue_of_idle {f : State → State} {s : State} (h : s.busy = false) : issue f s = .next (f s) := by
  simp [issue, h]

/-- A command over the grid has its effect in IDLE when the grid fits. -/
theorem issueOnGrid_of_fits {f : State → State} {s : State} (h : s.busy = false) (hn : s.gridN ≤ s.capacity) :
    issueOnGrid f s = .next (f s) := by
  simp [issueOnGrid, issue_of_idle h, Nat.not_lt.2 hn]

theorem issueOnGrid_of_oversize {f : State → State} {s : State} (h : s.busy = false) (hn : s.capacity < s.gridN) :
    issueOnGrid f s = .next (s.raise .size) := by
  simp [issueOnGrid, issue_of_idle h, hn]

/-- Everything the issue of a command can do: its effect, or an error raised. -/
theorem issueOnGrid_next {f : State → State} {s t : State} (h : issueOnGrid f s = .next t) :
    (s.busy = true ∧ t = s.raise .busyCmd) ∨ (s.busy = false ∧ s.capacity < s.gridN ∧ t = s.raise .size) ∨
      (s.busy = false ∧ s.gridN ≤ s.capacity ∧ t = f s) := by
  by_cases hb : s.busy = true
  · exact .inl ⟨hb, by simpa [issueOnGrid, issue_of_busy hb] using h.symm⟩
  · have hb : s.busy = false := by simpa using hb
    by_cases hn : s.capacity < s.gridN
    · exact .inr (.inl ⟨hb, hn, by simpa [issueOnGrid_of_oversize hb hn] using h.symm⟩)
    · exact .inr (.inr ⟨hb, by omega, by simpa [issueOnGrid_of_fits hb (Nat.not_lt.1 hn)] using h.symm⟩)

/-- DIFFUSE over written targets succeeds. -/
theorem diffuse_total {e : Pixel} {js : List Nat} {m : Memory} (h : ∀ j ∈ js, Written m j) :
    ∃ m', diffuse e js m = .ok m' := by
  induction js generalizing m with
  | nil => exact ⟨m, rfl⟩
  | cons j js ih =>
    obtain ⟨t, ht⟩ := Option.isSome_iff_exists.1 (h j (by simp))
    simp only [diffuse, ht]
    exact ih fun k hk => written_pixWrite _ (h k (List.mem_cons_of_mem _ hk))

/-- DIFFUSE that does not succeed met an unwritten target. -/
theorem diffuse_error {e : Pixel} {js : List Nat} {m : Memory} {j : Nat} (h : diffuse e js m = .error j) :
    j ∈ js ∧ m.pixRead j = none := by
  induction js generalizing m with
  | nil => simp [diffuse] at h
  | cons k js ih =>
    cases hk : m.pixRead k with
    | none => simp only [diffuse, hk, Except.error.injEq] at h; subst h; simp [hk]
    | some t =>
      simp only [diffuse, hk] at h
      obtain ⟨hj, hn⟩ := ih h
      rw [pixRead_pixWrite] at hn
      split_ifs at hn
      exact ⟨List.mem_cons_of_mem _ hj, hn⟩

/-- DIFFUSE leaves every byte outside its targets as it was. -/
theorem diffuse_readByte {e : Pixel} {js : List Nat} {m m' : Memory} (h : diffuse e js m = .ok m') {a : Nat}
    (ha : ∀ j ∈ js, ¬ inWord j a) : m'.readByte a = m.readByte a := by
  induction js generalizing m with
  | nil => simp only [diffuse, Except.ok.injEq] at h; rw [h]
  | cons k js ih =>
    cases hk : m.pixRead k with
    | none => simp [diffuse, hk] at h
    | some t =>
      simp only [diffuse, hk] at h
      rw [ih h fun j hj => ha j (List.mem_cons_of_mem _ hj), readByte_pixWrite, if_neg (ha k (by simp))]

/-- DIFFUSE leaves every word that is no target as it was. -/
theorem diffuse_pixRead {e : Pixel} {js : List Nat} {m m' : Memory} (h : diffuse e js m = .ok m') {i : Nat}
    (hi : i ∉ js) : m'.pixRead i = m.pixRead i :=
  pixRead_congr fun _ hc => diffuse_readByte h fun _ hj hw => hi ((inWord_channelAddr hc).1 hw ▸ hj)

/-- DIFFUSE adds the error vector once to each of its distinct targets. -/
theorem diffuse_target {e : Pixel} {js : List Nat} {m m' : Memory} (h : diffuse e js m = .ok m') (hd : js.Nodup)
    {j : Nat} (hj : j ∈ js) : ∃ t, m.pixRead j = some t ∧ m'.pixRead j = some (pixAdd t e) := by
  induction js generalizing m with
  | nil => cases hj
  | cons k js ih =>
    obtain ⟨hk', hd⟩ := List.nodup_cons.1 hd
    cases hk : m.pixRead k with
    | none => simp [diffuse, hk] at h
    | some t =>
      simp only [diffuse, hk] at h
      by_cases hjk : j = k
      · subst hjk
        exact ⟨t, hk, by rw [diffuse_pixRead h hk', pixRead_pixWrite, if_pos rfl]⟩
      · obtain ⟨u, hu, hu'⟩ := ih h hd ((List.mem_cons.1 hj).resolve_left hjk)
        rw [pixRead_pixWrite, if_neg (Ne.symm hjk)] at hu
        exact ⟨u, hu, hu'⟩

/-- DIFFUSE keeps the canonical form. -/
theorem diffuse_wf {e : Pixel} {js : List Nat} {m m' : Memory} (h : diffuse e js m = .ok m') (hw : m.wf) : m'.wf := by
  induction js generalizing m with
  | nil => simp only [diffuse, Except.ok.injEq] at h; exact h ▸ hw
  | cons k js ih =>
    cases hk : m.pixRead k with
    | none => simp [diffuse, hk] at h
    | some t => simp only [diffuse, hk] at h; exact ih h (pixWrite_wf _ _ hw)

/-- DIFFUSE over targets of the RAM keeps the memory's invariant. -/
theorem diffuse_memoryInv {e : Pixel} {js : List Nat} {m m' : Memory} (h : diffuse e js m = .ok m') {n : Nat}
    (hj : ∀ j ∈ js, j < n) (hm : MemoryInv n m) : MemoryInv n m' := by
  induction js generalizing m with
  | nil => simp only [diffuse, Except.ok.injEq] at h; exact h ▸ hm
  | cons k js ih =>
    cases hk : m.pixRead k with
    | none => simp [diffuse, hk] at h
    | some t =>
      simp only [diffuse, hk] at h
      exact ih h (fun j hj' => hj j (List.mem_cons_of_mem _ hj')) (pixWrite_memoryInv _ (hj k (by simp)) hm)

/-- Everything a pixel step that succeeds has done. -/
theorem pixelStep_ok {w h i : Nat} {m m' : Memory} (hs : pixelStep w h i m = .ok m') :
    ∃ o, m.pixRead i = some o ∧ diffuse (pixErr o) (stepTargets w h i) (m.pixWrite i (pixThr o)) = .ok m' := by
  cases ho : m.pixRead i with
  | none => simp [pixelStep, ho] at hs
  | some o => exact ⟨o, rfl, by simpa [pixelStep, ho] using hs⟩

/-- A pixel step that does not succeed met an unwritten word: the pixel itself or a target. -/
theorem pixelStep_error {w h i j : Nat} {m : Memory} (hs : pixelStep w h i m = .error j) :
    (j = i ∨ j ∈ stepTargets w h i) ∧ m.pixRead j = none := by
  cases ho : m.pixRead i with
  | none => simp only [pixelStep, ho, Except.error.injEq] at hs; subst hs; simp [ho]
  | some o =>
    simp only [pixelStep, ho] at hs
    obtain ⟨hj, hn⟩ := diffuse_error hs
    rw [pixRead_pixWrite] at hn
    split_ifs at hn
    exact ⟨.inr hj, hn⟩

/-- The two-tone scan succeeds exactly on a grid that is loaded, and tells whether every word is two-tone. -/
theorem twoToneGrid_ok {m : Memory} {n : Nat} {b : Bool} :
    twoToneGrid m n = .ok b ↔ Loaded m n ∧ (b = true ↔ TwoToneUpTo m n) := by
  induction n generalizing b with
  | zero => cases b <;> simp [twoToneGrid, Loaded, TwoToneUpTo]
  | succ n ih =>
    have hl : Loaded m (n + 1) ↔ Loaded m n ∧ Written m n := by
      simp only [Loaded, Nat.lt_succ_iff_lt_or_eq, or_imp, forall_and, forall_eq]
    have ht : TwoToneUpTo m (n + 1) ↔ TwoToneUpTo m n ∧ wordTwoTone m n = true := by
      simp only [TwoToneUpTo, Nat.lt_succ_iff_lt_or_eq, or_imp, forall_and, forall_eq]
    rw [hl, ht]
    cases hn : twoToneGrid m n with
    | error j =>
      have hnl : ¬ Loaded m n := fun hload => by
        have := (ih (b := decide (TwoToneUpTo m n))).2 ⟨hload, by simp⟩
        simp [hn] at this
      simp [twoToneGrid, hn, hnl]
    | ok c =>
      obtain ⟨hload, hc⟩ := ih.1 hn
      cases hp : m.pixRead n with
      | none => simp [twoToneGrid, hn, hp, Written]
      | some p =>
        have hw : wordTwoTone m n = pixTwoTone p := by simp [wordTwoTone, hp]
        simp only [twoToneGrid, hn, hp, Except.ok.injEq, hw, ← hc]
        constructor
        · rintro rfl; exact ⟨⟨hload, by simp [Written, hp]⟩, Bool.and_eq_true_iff⟩
        · rintro ⟨-, h⟩; exact Bool.eq_iff_iff.2 (Bool.and_eq_true_iff.trans h.symm)

/-- The two-tone scan that does not succeed met an unwritten word of the grid. -/
theorem twoToneGrid_error {m : Memory} {n j : Nat} (h : twoToneGrid m n = .error j) :
    j < n ∧ m.pixRead j = none := by
  induction n with
  | zero => simp [twoToneGrid] at h
  | succ n ih =>
    cases hn : twoToneGrid m n with
    | error k => simp only [twoToneGrid, hn, Except.error.injEq] at h; subst h; exact ⟨by have := (ih hn).1; omega, (ih hn).2⟩
    | ok c =>
      cases hp : m.pixRead n with
      | none => simp only [twoToneGrid, hn, hp, Except.error.injEq] at h; subst h; exact ⟨by omega, hp⟩
      | some p => simp [twoToneGrid, hn, hp] at h

end Sys2Proof.Laws
end

