-- ==== Sys2Proof/Laws/PerInstr.lean ====
section
/-! SUPPORT. Statements for all instructions, one lemma per constructor of Instr. -/

namespace Sys2Proof.Laws

/-- The instruction is well formed, and its word passes both checks on a command word (30_encoding.md R81, R84). -/
def EncodedWord.Statement (i : Instr) : Prop := i.wf = true ∧ cmdWordWf (encode i) = true

theorem EncodedWord.nop : EncodedWord.Statement .nop := ⟨rfl, rfl⟩

theorem EncodedWord.dither : EncodedWord.Statement .dither := ⟨rfl, rfl⟩

theorem EncodedWord.verify : EncodedWord.Statement .verify := ⟨rfl, rfl⟩

/-- Every instruction is well formed: none has an operand to check (30_encoding.md R82). -/
theorem instr_wf (i : Instr) : i.wf = true := by cases i <;> rfl

end Sys2Proof.Laws
end

