-- ==== Sys2Proof/Laws/Step.lean ====
section
/-! SUPPORT. What a step of each agent can do, said once: inversion lemmas for engine steps, host transactions and
the step of the machine. Later proofs cite these and do not unfold the step. -/

namespace Sys2Proof.Laws

open Sys2Proof.Machine

/-- Everything an engine step that goes on can do. -/
theorem engineStep_next {s t : State} (h : engineStep s = .next t) :
    (s.engineEnabled = false ∧ t = s) ∨
    (∃ i m, s.phase = .dithering i ∧ i < s.gridN ∧ pixelStep s.width.toNat s.height.toNat i s.pix = .ok m ∧
      t = s.advance i m) ∨
    (s.phase = .dithering s.gridN ∧ t = s.completeDither) ∨
    (∃ b, s.phase = .verifying ∧ twoToneGrid s.pix s.gridN = .ok b ∧ t = s.completeVerify b) := by
  cases hp : s.phase with
  | idle => exact .inl ⟨by simp [State.engineEnabled, hp], by simpa [engineStep, hp] using h.symm⟩
  | dithering i =>
    simp only [engineStep, hp] at h
    split at h
    · rename_i hi
      split at h
      · rename_i m hm; exact .inr (.inl ⟨i, m, rfl, hi, hm, by simpa using h.symm⟩)
      · cases h
    · split at h
      · rename_i hi; subst hi; exact .inr (.inr (.inl ⟨rfl, by simpa using h.symm⟩))
      · refine .inl ⟨?_, by simpa using h.symm⟩
        simp [State.engineEnabled, hp]; omega
  | verifying =>
    simp only [engineStep, hp] at h
    split at h
    · rename_i b hb; exact .inr (.inr (.inr ⟨b, rfl, hb, by simpa using h.symm⟩))
    · cases h

/-- An engine step never refuses, and faults only on an unwritten word. -/
theorem engineStep_not_refused (s : State) (r : Refusal) : engineStep s ≠ .refused r := by
  intro h
  simp only [engineStep] at h
  repeat' split at h
  all_goals cases h

/-- Everything the issue of a command word can do: nothing, an error raised, or the command that it encodes accepted. -/
theorem cmdWrite_next {d : Word} {s t : State} (h : cmdWrite d s = .next t) :
    (s.busy = true ∧ t = s.raise .busyCmd) ∨
    (s.busy = false ∧ (t = s ∨ t = s.raise .illegalCmd ∨ (s.capacity < s.gridN ∧ t = s.raise .size) ∨
      (s.gridN ≤ s.capacity ∧ ((decode d = .ok .dither ∧ t = s.acceptDither) ∨
        (decode d = .ok .verify ∧ t = s.acceptVerify))))) := by
  by_cases hb : s.busy = true
  · refine .inl ⟨hb, ?_⟩
    simp only [cmdWrite] at h
    split at h
    · rename_i i _
      cases i <;> simpa [exec, execNop, execDither, execVerify, issueOnGrid, issue_of_busy hb] using h.symm
    · simpa [execIllegal, issue_of_busy hb] using h.symm
  · have hb : s.busy = false := by simpa using hb
    refine .inr ⟨hb, ?_⟩
    simp only [cmdWrite] at h
    split at h
    · rename_i i hi
      cases i with
      | nop => left; simpa [exec, execNop, issue_of_idle hb] using h.symm
      | dither =>
        rcases issueOnGrid_next h with ⟨h1, -⟩ | ⟨-, h2⟩ | ⟨-, h2, h3⟩
        · simp [hb] at h1
        · exact .inr (.inr (.inl h2))
        · exact .inr (.inr (.inr ⟨h2, .inl ⟨hi, h3⟩⟩))
      | verify =>
        rcases issueOnGrid_next h with ⟨h1, -⟩ | ⟨-, h2⟩ | ⟨-, h2, h3⟩
        · simp [hb] at h1
        · exact .inr (.inr (.inl h2))
        · exact .inr (.inr (.inr ⟨h2, .inr ⟨hi, h3⟩⟩))
    · exact .inr (.inl (by simpa [execIllegal, issue_of_idle hb] using h.symm))

/-- A CMD write always goes on. -/
theorem cmdWrite_total (d : Word) (s : State) : ∃ t, cmdWrite d s = .next t := by
  simp only [cmdWrite]
  split
  · rename_i i _
    cases i <;> exact ⟨_, rfl⟩
  · exact ⟨_, rfl⟩

/-- Everything a host read that goes on can do: a response, and a draw with HOST_CONFLICT for a pixel read while busy. -/
theorem memRead_next {a : Word} {s t : State} (h : memRead a s = .next t) :
    (∃ r, t = s.respond r) ∨
    (s.busy = true ∧ ∃ r, t = ((s.raise .hostConflict).takeDraw).respond r) := by
  simp only [memRead] at h
  split at h
  · exact .inl ⟨_, by simpa using h.symm⟩
  · rename_i l _
    cases l <;> simp only [readLocation] at h
    case status =>
      split at h
      · cases h
      · exact .inl ⟨_, by simpa using h.symm⟩
    case pix i =>
      split at h
      · rename_i hb; exact .inr ⟨hb, _, by simpa using h.symm⟩
      · split at h
        · exact .inl ⟨_, by simpa using h.symm⟩
        · cases h
    all_goals exact .inl ⟨_, by simpa using h.symm⟩

/-- A mapped address is that of its location: each location has one address. -/
theorem locate_addr {n : Nat} {a : Word} {l : Location} (h : locate n a = .ok l) : a = l.addr := by
  have key : a.toNat = l.offset := by
    simp only [locate] at h
    split at h
    · cases h
    · split at h
      · split at h
        · cases h; simp only [Location.offset, channelAddr]; omega
        · cases h
      · split at h <;> cases h <;> assumption
  rw [Location.addr, ← key, BitVec.ofNat_toNat, BitVec.setWidth_eq]

/-- Every address the map gives as a pixel word is of a word of the RAM. -/
theorem locate_pix_lt {n : Nat} {a : Word} {i : Nat} (h : locate n a = .ok (.pix i)) : i < n := by
  simp only [locate] at h
  split at h
  · cases h
  · split at h
    · split at h
      · simp only [Except.ok.injEq, Location.pix.injEq] at h; omega
      · cases h
    · split at h <;> simp at h

/-- Everything the write of `d` at `a` can do to the state `s` that has answered it. -/
inductive WriteEffect (a d : Word) (s : State) : State → Prop where
  | nothing : WriteEffect a d s s
  | setIrqEn (ha : a = 0x004) : WriteEffect a d s (s.setIrqEn (d.getLsbD 0))
  | acknowledge (ha : a = 0x00C) : WriteEffect a d s (s.acknowledge d)
  | raise (e : ErrorCause) : WriteEffect a d s (s.raise e)
  | setWidth (ha : a = 0x010) (h : s.busy = false) : WriteEffect a d s (s.setWidth d)
  | setHeight (ha : a = 0x014) (h : s.busy = false) : WriteEffect a d s (s.setHeight d)
  | pixWrite (i : Nat) (ha : locate s.capacity a = .ok (.pix i)) (h : s.busy = false) :
      WriteEffect a d s (s.setPix (s.pix.pixWrite i (unpack d)))
  | acceptDither (ha : a = 0x008) (hd : decode d = .ok .dither) (h : s.busy = false) (hn : s.gridN ≤ s.capacity) :
      WriteEffect a d s s.acceptDither
  | acceptVerify (ha : a = 0x008) (hd : decode d = .ok .verify) (h : s.busy = false) (hn : s.gridN ≤ s.capacity) :
      WriteEffect a d s s.acceptVerify

theorem guardedWrite_effect {a d : Word} {f : State → State} {s : State}
    (hf : s.busy = false → WriteEffect a d s (f s)) : WriteEffect a d s (guardedWrite f s) := by
  by_cases hb : s.busy = true
  · simpa [guardedWrite, hb] using WriteEffect.raise _
  · simpa [guardedWrite, hb] using hf (by simpa using hb)

theorem cmdWrite_effect {d : Word} {s t : State} (h : cmdWrite d s = .next t) : WriteEffect 0x008 d s t := by
  rcases cmdWrite_next h with ⟨-, rfl⟩ | ⟨hb, rfl | rfl | ⟨-, rfl⟩ | ⟨hn, ⟨hd, rfl⟩ | ⟨hd, rfl⟩⟩⟩
  exacts [.raise _, .nothing, .raise _, .raise _, .acceptDither rfl hd hb hn, .acceptVerify rfl hd hb hn]

/-- Everything a host write that goes on can do. -/
theorem memWrite_next {a d : Word} {s t : State} (h : memWrite a d s = .next t) :
    ∃ r, WriteEffect a d (s.respond (.write r)) t := by
  simp only [memWrite] at h
  split at h
  · exact ⟨.error, by simp only [Host.Outcome.next.injEq] at h; exact h ▸ .nothing⟩
  · rename_i l hl
    have ha := locate_addr hl
    refine ⟨.okay, ?_⟩
    cases l <;> simp only [writeLocation, Host.Outcome.next.injEq] at h
    case cmd => exact ha ▸ cmdWrite_effect h
    case ctrl => exact h ▸ .setIrqEn ha
    case status => exact h ▸ .acknowledge ha
    case width => exact h ▸ guardedWrite_effect fun hb => .setWidth ha hb
    case height => exact h ▸ guardedWrite_effect fun hb => .setHeight ha hb
    case pix i => exact h ▸ guardedWrite_effect fun hb => .pixWrite i hl hb
    all_goals exact h ▸ .nothing

/-- A host write always goes on. -/
theorem memWrite_total (a d : Word) (s : State) : ∃ t, memWrite a d s = .next t := by
  simp only [memWrite]
  split
  · exact ⟨_, rfl⟩
  · rename_i l _
    cases l <;> first | exact ⟨_, rfl⟩ | exact cmdWrite_total _ _

/-- A host read faults only on an unwritten word of the RAM, in IDLE. -/
theorem memRead_fault {a : Word} {s : State} {f : Fault} (h : memRead a s = .fault f) :
    ∃ i, f = .unwrittenRead .host i ∧ i < s.capacity ∧ s.busy = false ∧ s.pix.pixRead i = none := by
  simp only [memRead] at h
  split at h
  · cases h
  · rename_i l hl
    cases l <;> simp only [readLocation] at h
    case status => split at h <;> cases h
    case pix i =>
      split at h
      · cases h
      · rename_i hb
        split at h
        · cases h
        · rename_i hn
          exact ⟨i, by simpa using h.symm, locate_pix_lt hl, by simpa using hb, hn⟩
    all_goals cases h

/-- A host read is refused only for a reserved ERRCODE. -/
theorem memRead_refused {a : Word} {s : State} {r : Refusal} (h : memRead a s = .refused r) :
    r = .reservedErrCode s.errCode ∧ errCodeReserved s.errCode = true := by
  simp only [memRead] at h
  split at h
  · cases h
  · rename_i l hl
    cases l <;> simp only [readLocation] at h
    case status =>
      split at h
      · rename_i hr; exact ⟨by simpa using h.symm, hr⟩
      · cases h
    case pix i =>
      split at h
      · cases h
      · split at h <;> cases h
    all_goals cases h

/-- Everything a transaction of the host operation `op` can do to the state `s`: a read's response, a read's draw, or the
effect of a write. -/
inductive HostEffect (op : HostOp) (s : State) : State → Prop where
  | answered (r : PortOut) : HostEffect op s (s.respond r)
  | drawn (h : s.busy = true) (r : PortOut) : HostEffect op s (((s.raise .hostConflict).takeDraw).respond r)
  | wrote (a d : Word) (hop : op = .write a d) (r : Resp) {t : State}
      (h : WriteEffect a d (s.respond (.write r)) t) : HostEffect op s t

/-- Everything a host step that goes on can do: nothing, or one transaction; the operation is over, or, for a `WAIT.IDLE`
that has read BUSY = 1, is still the host's next one. -/
theorem hostStep_next {s t : State} (h : hostStep s = .next t) :
    (s.hostOps = [] ∧ t = s) ∨
    ∃ op ops, s.hostOps = op :: ops ∧ ∃ u, HostEffect op (s.setHostOps ops) u ∧
      (t = u ∨ (op = .waitIdle ∧ t = u.setHostOps (.waitIdle :: u.hostOps))) := by
  simp only [hostStep] at h
  split at h
  · rename_i h0; exact .inl ⟨h0, by simpa using h.symm⟩
  · rename_i op ops h0
    refine .inr ⟨op, ops, h0, ?_⟩
    have hread : ∀ {a : Word} {s u : State}, memRead a s = .next u → HostEffect op s u := fun hu => by
      rcases memRead_next hu with ⟨r, rfl⟩ | ⟨hb, r, rfl⟩
      exacts [.answered r, .drawn hb r]
    cases op with
    | read a => exact ⟨t, hread h, .inl rfl⟩
    | write a d => obtain ⟨r, hw⟩ := memWrite_next h; exact ⟨t, .wrote a d rfl r hw, .inl rfl⟩
    | waitIdle =>
      simp only [performOp, waitIdleRead] at h
      split at h
      · rename_i u hu
        refine ⟨u, hread hu, ?_⟩
        simp only [Host.Outcome.next.injEq] at h
        by_cases hb : u.readBusyBit = true
        · exact .inr ⟨rfl, by simpa [hb] using h.symm⟩
        · exact .inl (by simpa [hb] using h.symm)
      · cases h
      · cases h

/-- Everything a step can do: one turn of the host, of the engine, or a reset event. The turn is the next one fixed; with
none fixed it is the engine's if an engine step is enabled, and else the host's. -/
theorem step_next {s t : State} (h : step s = .next t) :
    ∃ u, (u = s ∨ ∃ x ts, s.turns = x :: ts ∧ u = s.setTurns ts) ∧
      ((HostMoves s ∧ hostStep u = .next t) ∨ (EngineMoves s ∧ engineStep u = .next t) ∨
        (s.turns.head? = some .reset ∧ t = u.resetEvent) ∨
        (s.turns.head? = some .resetOverlap ∧ t = (u.setHostOps (dropOverlapped u.hostOps)).resetEvent)) := by
  simp only [step, nextTurn] at h
  split at h
  · rename_i h0
    refine ⟨s, .inl rfl, ?_⟩
    simp only [defaultTurn] at h
    split at h
    · rename_i he; exact .inr (.inl ⟨.inl ⟨h0, he⟩, h⟩)
    · rename_i he; exact .inl ⟨.inl ⟨h0, by simpa using he⟩, h⟩
  · rename_i x ts hx
    refine ⟨s.setTurns ts, .inr ⟨x, ts, hx, rfl⟩, ?_⟩
    have hh : s.turns.head? = some x := by rw [hx]; rfl
    cases x <;> simp only [takeTurn, Host.Outcome.next.injEq] at h
    exacts [.inl ⟨.inr hh, h⟩, .inr (.inl ⟨.inr hh, h⟩), .inr (.inr (.inl ⟨hh, h.symm⟩)),
      .inr (.inr (.inr ⟨hh, h.symm⟩))]

/-- At the host's turn the step is the host's, with that turn over. -/
theorem step_of_hostMoves {s : State} (h : HostMoves s) : step s = hostStep { s with turns := s.turns.tail } := by
  rcases s with ⟨_, _, _, _, _, _, _, _, _, _, _, _, _, _, _ | ⟨x, ts⟩⟩
  · rcases h with ⟨-, h⟩ | h
    · simp only [step, nextTurn, defaultTurn, h]; rfl
    · cases h
  · rcases h with ⟨h, -⟩ | h
    · cases h
    · cases h; rfl

/-- At the engine's turn the step is the engine's, with that turn over. -/
theorem step_of_engineMoves {s : State} (h : EngineMoves s) : step s = engineStep { s with turns := s.turns.tail } := by
  rcases s with ⟨_, _, _, _, _, _, _, _, _, _, _, _, _, _, _ | ⟨x, ts⟩⟩
  · rcases h with ⟨-, h⟩ | h
    · simp only [step, nextTurn, defaultTurn, h]; rfl
    · cases h
  · rcases h with ⟨h, -⟩ | h
    · cases h
    · cases h; rfl

/-- A run of no step stays where it is. -/
theorem run_zero_next {s t : State} (h : core.run 0 s = .next t) : t = s :=
  Host.Outcome.next.inj (h.symm.trans (rfl : core.run 0 s = .next s))

/-- A run of `k + 1` steps begins with a step. -/
theorem run_succ_of_next {s t : State} (k : Nat) (h : step s = .next t) : core.run (k + 1) s = core.run k t := by
  have h' : core.step s = .next t := h
  simp only [Host.Core.run, h']

/-- A run of `k + 1` steps that goes on has gone on at its first step. -/
theorem run_succ_next {s t : State} {k : Nat} (h : core.run (k + 1) s = .next t) :
    ∃ u, step s = .next u ∧ core.run k u = .next t := by
  cases hs : step s with
  | next u => exact ⟨u, rfl, (run_succ_of_next k hs).symm.trans h⟩
  | fault f => have h' : core.step s = .fault f := hs; simp [Host.Core.run, h'] at h
  | refused r => have h' : core.step s = .refused r := hs; simp [Host.Core.run, h'] at h

end Sys2Proof.Laws
end

