-- ==== Sys2Proof/Tests/Slice0.lean ====
section
/-! SUPPORT. Tests on one step, with results from 95_test_vectors.md or by hand from the rules named, and the witnesses
that the hypotheses of the obligations can be met. -/

namespace Sys2Proof.Tests

open Sys2Proof Sys2Proof.Machine

/-! ### Helpers -/

/-- What an outcome shows of the next state; nothing where the step stops. -/
def seen {α : Type} (f : State → α) : Host.Outcome State Fault Refusal → Option α
  | .next t => some (f t)
  | _ => none

/-- The fault of an outcome, if any. -/
def faultOf : Host.Outcome State Fault Refusal → Option Fault
  | .fault f => some f
  | _ => none

/-- A memory with the given words from index `i` on. -/
def words (i : Nat) : List Word → Memory
  | [] => []
  | w :: ws => (words (i + 1) ws).pixWrite i (unpack w)

/-- IDLE, with a grid of `w` columns and `h` rows loaded with the words. -/
def grid (w h : Word) (ws : List Word) : State := { State.reset with width := w, height := h, pix := words 0 ws }

/-- The words 0 .. n-1 of a state. -/
def dump (n : Nat) (s : State) : List (Option Word) := (List.range n).map fun i => (s.pix.pixRead i).map pack

/-- A 2 × 1 grid in the given phase. -/
def busyAt (p : Phase) : State := { grid 2 1 [0xFF7F7F7F, 0xFFFAFAFA] with phase := p }

/-! ### Well-formedness and decoding (30_encoding.md R81, R84, R85) -/

theorem test_wf_refuses_reserved_bits : cmdRsvdZero 0x00000100 = false := by decide
theorem test_wf_refuses_reserved_opcode : cmdOpAssigned 0x00000003 = false := by decide
theorem test_wf_refuses_words : cmdWordWf 0x80000001 = false ∧ cmdWordWf 0x000000FF = false := by decide
theorem test_wf_accepts_words : cmdWordWf 0 = true ∧ cmdWordWf 1 = true ∧ cmdWordWf 2 = true := by decide
theorem test_capacity_range : ¬ Config.legalCapacity 0 ∧ ¬ Config.legalCapacity 1073740801 ∧
    Config.legalCapacity 1 ∧ Config.legalCapacity 1073740800 := by decide
theorem test_program_wf_refuses_word_outside : stmtWf 16 (.wr (.loc (.pix 16)) (.num 0)) = false ∧
    stmtWf 16 (.load 15 [.num 0, .num 0]) = false ∧ stmtWf 16 (.dump 15 2) = false ∧
    stmtWf 16 (.rd (.loc (.pix 15)) none) = true := by decide

theorem test_decode_nop : decode (0b00000000000000000000000000000000 : Word) = .ok .nop := by decide
theorem test_decode_dither : decode (0b00000000000000000000000000000001 : Word) = .ok .dither := by decide
theorem test_decode_verify : decode (0b00000000000000000000000000000010 : Word) = .ok .verify := by decide
theorem test_decode_illegal : decode 0x00000003 = .error .reservedOpcode ∧
    decode 0x00000101 = .error .reservedBits := by decide

/-! ### The datapath (95_test_vectors.md 2.1 to 2.3) -/

theorem test_error_table : [0, 1, 7, 8, 15, 16, 100, 127, 128, 129, 200, 254, 255].map
    (fun o : Byte => (thr o, satsub8 o (thr o), chanErr o (thr o))) =
    [(0, 0, 0), (0, 1, 0), (0, 7, 0), (0, 8, 1), (0, 15, 1), (0, 16, 2), (0, 100, 12), (0, 127, 15),
      (255, 0, 0), (255, 0, 0), (255, 0, 0), (255, 0, 0), (255, 0, 0)] := by decide
theorem test_satadd_table : [(0, 0), (127, 15), (113, 15), (112, 15), (240, 15), (250, 15), (255, 1), (255, 0)].map
    (fun p : Byte × Byte => satadd8 p.1 p.2) = [0, 142, 128, 127, 255, 255, 255, 255] := by decide
theorem test_satsub_stops_at_zero : satsub8 5 9 = 0 ∧ satsub8 255 0 = 255 := by decide
/-- Grid 4 × 3: (0,0) omits offset 3; (1,0) has all six; (3,2) has none (95_test_vectors.md 2.3). -/
theorem test_targets : targets 4 3 0 0 = [1, 2, 4, 5, 8] ∧ targets 4 3 1 0 = [2, 3, 4, 5, 6, 9] ∧
    targets 4 3 3 0 = [6, 7, 11] ∧ targets 4 3 0 2 = [9, 10] ∧ targets 4 3 3 2 = [] := by decide
/-- Grid 2 × 2: the target (2, 0) is dropped and does not wrap to (0, 1). Grid 1 × 3: (0,1) and (0,2) only. -/
theorem test_targets_do_not_wrap : targets 2 2 0 0 = [1, 2, 3] ∧ targets 1 3 0 0 = [1, 2] := by decide
/-- The pixel (0x44, 0x33, 0x22, 0x11) is the word 0x11223344 (95_test_vectors.md 2.8). -/
theorem test_packing : pack { r := 0x44, g := 0x33, b := 0x22, a := 0x11 } = 0x11223344 ∧
    (unpack 0x11223344).a = 0x11 := by decide

/-! ### Commands and engine steps -/

/-- 41_commands.md R131's example: STATUS stays 2. -/
theorem test_nop_keeps_done : seen State.statusWord (exec .nop { State.reset with done := true }) = some 2 := by decide
theorem test_nop_while_busy : seen State.statusWord (exec .nop (busyAt (.dithering 1))) = some 0x205 := by decide
/-- 95_test_vectors.md 2.7: accepted, STATUS = 1. -/
theorem test_dither_accepted : seen (fun t => (t.statusWord, t.phase))
    (exec .dither { grid 4 4 [] with done := true, twoTone := true }) = some (1, .dithering 0) := by decide
/-- 95_test_vectors.md 2.7: N = 2^32 exactly, so SIZE: STATUS = 0x304. -/
theorem test_dither_size_is_exact : seen State.statusWord (exec .dither (grid 0x10000 0x10000 [])) = some 0x304 := by decide
theorem test_verify_keeps_two_tone : seen (fun t => (t.statusWord, t.phase))
    (exec .verify { grid 1 1 [] with done := true, twoTone := true }) = some (9, .verifying) := by decide
theorem test_illegal_keeps_first_error : seen State.statusWord
    (cmdWrite 0x00000101 { State.reset with err := true, errCode := 3 }) = some 0x304 := by decide

/-- E1, step 0: the error goes to all three neighbours. -/
theorem test_pixel_step_E1 : seen (fun t => (dump 4 t, t.pixCount, t.phase))
    (engineStep (grid 2 2 [0xFF7F7F7F, 0xFF7F7F7F, 0xFF7F7F7F, 0xFF7F7F7F]).acceptDither) =
    some ([some 0xFF000000, some 0xFF8E8E8E, some 0xFF8E8E8E, some 0xFF8E8E8E], 1, .dithering 1) := by decide
/-- E5: 250 + 15 saturates. -/
theorem test_pixel_step_E5 : seen (dump 2) (engineStep (busyAt (.dithering 0))) =
    some [some 0xFF000000, some 0xFFFFFFFF] := by decide
/-- V2, step 1, at (1,0) of a 3 × 2 grid: offset (-1,+1) reaches (0,1). -/
theorem test_pixel_step_V2 : seen (dump 6) (engineStep { grid 3 2
      [0xFF000000, 0xFF0C0C0C, 0xFF0C0C0C, 0xFF0C0C0C, 0xFF0C0C0C, 0xFF000000] with phase := .dithering 1 }) =
    some [some 0xFF000000, some 0xFF000000, some 0xFF0D0D0D, some 0xFF0D0D0D, some 0xFF0D0D0D,
      some 0xFF010101] := by decide
theorem test_completion : seen (fun t => (t.statusWord, t.phase)) (engineStep (busyAt (.dithering 2))) =
    some (2, .idle) := by decide
/-- 95_test_vectors.md 2.5. -/
theorem test_verify_step : seen State.statusWord
      (engineStep { grid 1 1 [0xFF000000] with phase := .verifying }) = some 0x0A ∧
    seen State.statusWord (engineStep { grid 2 1 [0xFFFFFFFF, 0x7FFFFFFF] with phase := .verifying }) = some 2 := by decide
theorem test_engine_faults_on_unwritten : faultOf (engineStep (grid 2 1 [0xFF000000]).acceptDither) =
      some (.unwrittenRead .dither 1) ∧
    faultOf (engineStep (grid 2 1 [0xFF808080]).acceptVerify) = some (.unwrittenRead .verify 1) := by decide

/-! ### The host port (95_test_vectors.md 2.7, 2.8) -/

theorem test_bus_errors : [0x002, 0x020, 0xFFC, 0x1040].map (fun a : Word => seen State.port (memRead a State.reset)) =
    [some (some (.read 0 .error)), some (some (.read 0 .error)), some (some (.read 0 .error)),
      some (some (.read 0 .error))] := by decide
theorem test_id_reads : seen State.port (memRead 0x000 State.reset) = some (some (.read 0x41544B44 .okay)) := by decide
theorem test_status_write : seen State.statusWord
    (memWrite 0x00C 0xFFFFFFFF { State.reset with done := true, err := true, errCode := 4, twoTone := true }) =
    some 8 := by decide
theorem test_busy_pixel_write : seen (fun t => (t.statusWord, dump 2 t)) (memWrite 0x1000 0 (busyAt (.dithering 1))) =
    some (0x405, [some 0xFF7F7F7F, some 0xFFFAFAFA]) := by decide
theorem test_busy_width_write : seen (fun t => (t.statusWord, t.width)) (memWrite 0x010 9 (busyAt .verifying)) =
    some (0x405, 2) := by decide
theorem test_pixel_write : seen (dump 4) (memWrite 0x100C 0x11223344 State.reset) =
    some [none, none, none, some 0x11223344] := by decide
theorem test_unwritten_read : faultOf (memRead 0x1000 State.reset) = some (.unwrittenRead .host 0) := by decide
theorem test_reserved_errcode_refused : (match memRead 0x00C { State.reset with errCode := 5 } with
    | .refused (.reservedErrCode c) => c == 5 | _ => false) = true := by decide

/-! ### Steps, turns and host programs -/

/-- The first step after reset runs the word placed (log 13). -/
theorem test_fetch_word_runs : seen (fun t => (t.phase, t.port)) (step (State.reset.withFetchWord 32 1)) =
    some (.dithering 0, some (.write .okay)) := by decide
theorem test_table_words : decodeTableWord 32 0 = some .nop ∧ decodeTableWord 32 1 = some .dither ∧
    decodeTableWord 32 2 = some .verify ∧ decodeTableWord 32 3 = none := by decide
theorem test_reset_event : seen (fun t => (t.statusWord, t.pix, t.phase))
    (step { busyAt (.dithering 1) with err := true, turns := [.reset] }) = some (0, [], .idle) := by decide
theorem test_overlapped_write_dropped : seen (fun t => (t.width, t.hostOps))
    (step { State.reset with turns := [.resetOverlap], hostOps := [.write 0x010 7, .waitIdle] }) =
    some (0, [.waitIdle]) := by decide
theorem test_wait_idle_waits : seen State.hostOps
    (step { busyAt .verifying with turns := [.host], hostOps := [.waitIdle] }) = some [.waitIdle] := by decide
theorem test_engine_goes_first : seen State.phase (step { busyAt (.dithering 0) with hostOps := [.read 0] }) =
    some (.dithering 1) := by decide
/-- 30_encoding.md R89's example, and R88's LOAD. -/
theorem test_program : encodeProgram [.cmdDither, .load 0 [.pixel 0 0 0 255]] =
    [.write 0x008 0x00000001, .write 0x1000 0xFF000000] := by decide

/-! ### Witnesses: the hypotheses of the obligations can be met -/

/-- Two steps of a program that is loaded and whole: IDLE, the grid loaded, DITHER next, its turns fixed. -/
def ready : State := { grid 2 1 [0xFF7F7F7F, 0xFFFAFAFA] with
  turns := [.host, .engine, .engine, .engine], hostOps := [.write 0x008 1] }

theorem witness_DecodeOfEncodeIsTheInstruction : Instr.wf .nop = true ∧ Instr.wf .dither = true ∧
    Instr.wf .verify = true := by decide
theorem witness_StepRunsTheDecodedCommand : HostNext ready (.write 0x008 1) ∧ decode 1 = .ok .dither ∧
    HostNext { State.reset with hostOps := [.write 0x008 0xFFFFFFFF] } (.write 0x008 0xFFFFFFFF) ∧
    decode 0xFFFFFFFF = .error .reservedBits ∧ decodeTableWord 32 2 = some .verify := by decide
theorem witness_DispatchChecksInOrder : (busyAt .verifying).phase ≠ .idle ∧ ready.phase = .idle ∧
    decode 3 = .error .reservedOpcode ∧ decode 0 = .ok .nop ∧ decode 1 = .ok .dither ∧ decode 2 = .ok .verify ∧
    (grid 17 1 []).capacity < (grid 17 1 []).width.toNat * (grid 17 1 []).height.toNat ∧
    (grid 16 1 []).width.toNat * (grid 16 1 []).height.toNat ≤ (grid 16 1 []).capacity := by decide
theorem witness_NopHasNoEffect : State.reset.phase = .idle ∧ (busyAt (.dithering 0)).phase ≠ .idle := by decide
theorem witness_DitherIsAccepted : (grid 4 4 []).phase = .idle ∧
    (grid 4 4 []).width.toNat * (grid 4 4 []).height.toNat ≤ (grid 4 4 []).capacity := by decide
theorem witness_VerifyIsAccepted : (grid 0xFFFFFFFF 0 []).phase = .idle ∧
    (grid 0xFFFFFFFF 0 []).width.toNat * (grid 0xFFFFFFFF 0 []).height.toNat ≤ (grid 0xFFFFFFFF 0 []).capacity := by decide
theorem witness_CommandFrame : (∃ t, exec .nop (busyAt .verifying) = .next t) ∧ (∃ t, exec .dither ready = .next t) ∧
    (∃ t, exec .verify (grid 17 1 []) = .next t) ∧ ready.phase = .idle ∧ ready.gridN ≤ ready.capacity ∧
    (grid 17 1 []).capacity < (grid 17 1 []).gridN := ⟨⟨_, rfl⟩, ⟨_, rfl⟩, ⟨_, rfl⟩, by decide, by decide, by decide⟩
theorem witness_TargetsAreTheInBoundsOffsets : 1 < 4 ∧ 0 < 3 ∧ 2 ∈ targets 4 3 1 0 ∧ 3 ∈ targets 4 3 1 0 ∧
    4 ∈ targets 4 3 1 0 ∧ 5 ∈ targets 4 3 1 0 ∧ 6 ∈ targets 4 3 1 0 ∧ 9 ∈ targets 4 3 1 0 := by decide
theorem witness_TargetsLieAheadAndAreDistinct : 0 < 4 * 3 ∧ 11 < 4 * 3 ∧ 8 ∈ stepTargets 4 3 0 := by decide
theorem witness_TargetOrderIsIrrelevant : (words 0 [1, 2, 3]).wf ∧ [1, 2].Nodup ∧ [1, 2].Perm [2, 1] ∧
    ∃ n, diffuse (unpack 0x01010101) [1, 2] (words 0 [1, 2, 3]) = .ok n := ⟨by decide, by decide, by decide, _, rfl⟩
theorem witness_WriteBackOrderIsIrrelevant : (words 0 [1, 2, 3]).wf ∧ 0 < 3 * 1 ∧
    (words 0 [1, 2, 3]).pixRead 0 = some (unpack 1) := by decide
theorem witness_LanesDoNotInterfere : 0 < 4 ∧ (∀ i, (words 0 [0x01]).readByte (channelAddr i 0) =
      (words 0 [0x7701]).readByte (channelAddr i 0)) ∧ words 0 [0x01] ≠ words 0 [0x7701] ∧
    (∃ n, ditherPrefix 1 1 (words 0 [0x01]) 1 = .ok n) ∧ ∃ n, ditherPrefix 1 1 (words 0 [0x7701]) 1 = .ok n := by
  refine ⟨by decide, fun i => ?_, by decide, ⟨_, rfl⟩, ⟨_, rfl⟩⟩
  have h : ∀ w : Word, (unpack w).r = 1 →
      (words 0 [w]).readByte (channelAddr i 0) = if 0 = i then some 1 else none := fun w hw => by
    have hn : Memory.readByte [] (channelAddr i 0) = none := rfl
    simp only [words, Laws.readByte_pixWrite, hn]
    by_cases hi : 0 = i
    · subst hi; simp [channelAddr, inWord, laneOf, hw]
    · rw [if_neg (mt (Laws.inWord_channelAddr (by omega)).1 hi), if_neg hi]
  rw [h _ (by decide), h _ (by decide)]
theorem witness_SampleIsTheClampedSum : 0 < 1 * 1 ∧ ∀ i, i ≤ 0 →
    ∃ n, ditherPrefix 1 1 (words 0 [5]) i = .ok n ∧ n.pixRead i = some (unpack 5) :=
  ⟨by decide, fun i hi => by obtain rfl : i = 0 := by omega
                             exact ⟨_, rfl, by decide⟩⟩
theorem witness_PixelStepThresholdsAndDiffuses : (busyAt (.dithering 0)).phase = .dithering 0 ∧
    0 < (busyAt (.dithering 0)).gridN ∧ Loaded (busyAt (.dithering 0)).pix (busyAt (.dithering 0)).gridN ∧
    1 ∈ stepTargets 2 1 0 := by decide
theorem witness_DitherCompletionSetsDone : (busyAt (.dithering 2)).phase =
    .dithering ((busyAt (.dithering 2)).width.toNat * (busyAt (.dithering 2)).height.toNat) := by decide
theorem witness_VerifyStepReportsTwoTone : (busyAt .verifying).phase = .verifying ∧
    Loaded (busyAt .verifying).pix (busyAt .verifying).gridN := by decide
theorem witness_EngineStepFrame : (∃ t, engineStep (busyAt (.dithering 0)) = .next t) ∧
    (∃ t, engineStep (busyAt .verifying) = .next t) := ⟨⟨_, rfl⟩, ⟨_, rfl⟩⟩
theorem witness_EngineCannotFailOnALoadedGrid : Loaded (busyAt (.dithering 1)).pix (busyAt (.dithering 1)).gridN := by decide
theorem witness_EngineFaultsOnlyOnUnwrittenWords : ∃ s u v : State,
    (s.phase = .dithering 0 ∧ 0 < s.gridN ∧ 1 ∈ stepTargets s.width.toNat s.height.toNat 0 ∧ s.pix.pixRead 1 = none ∧
      ∃ f, engineStep s = .fault f) ∧
    (u.phase = .dithering 1 ∧ 1 < u.gridN ∧ u.pix.pixRead 1 = none) ∧
    (v.phase = .verifying ∧ 1 < v.gridN ∧ v.pix.pixRead 1 = none) :=
  ⟨(grid 2 1 [0xFF000000]).acceptDither, { grid 2 1 [0xFF000000] with phase := .dithering 1 },
    (grid 2 1 [0xFF000000]).acceptVerify, ⟨by decide, by decide, by decide, by decide, _, rfl⟩, by decide, by decide⟩
theorem witness_DitherTakesNPlusOneEngineSteps : (busyAt (.dithering 0)).phase = .dithering 0 ∧
    Loaded (busyAt (.dithering 0)).pix (busyAt (.dithering 0)).gridN ∧ (busyAt .verifying).phase = .verifying ∧
    Loaded (busyAt .verifying).pix (busyAt .verifying).gridN := by decide
theorem witness_DitherYieldsATwoToneGrid : Config.legalCapacity ready.capacity ∧ ready.phase = .idle ∧
    ready.gridN ≤ ready.capacity ∧ Loaded ready.pix ready.gridN ∧
    ready.turns = .host :: (List.replicate (ready.gridN + 1) .engine ++ []) ∧
    ready.hostOps = .write 0x008 0x00000001 :: [] := by decide
theorem witness_AnyScheduleRunsTheSequentialOrder : ∃ s t : State, s.phase = .dithering 0 ∧ s.done = false ∧
    NoReset (s.turns.take 1) ∧ core.run 1 s = .next t ∧ ∀ j u, j < 1 → core.run j s = .next u → u.busy = true :=
  ⟨{ busyAt (.dithering 0) with turns := [.host, .reset], hostOps := [.read 0x018] }, _, by decide, by decide, by decide, rfl,
    fun j u hj hu => by obtain rfl : j = 0 := by omega
                        rw [Laws.run_zero_next hu]; decide⟩
theorem witness_ResultDependsOnlyOnTheGrid : 1 ≤ 1 * 1 ∧ AgreeUpTo (1 * 1) (words 0 [5, 6]) (words 0 [5, 7]) ∧
    ∃ n, ditherPrefix 1 1 (words 0 [5, 6]) 1 = .ok n := ⟨by decide, by decide, _, rfl⟩
theorem witness_VerifyAfterDitherReportsTwoTone : ready.phase = .idle ∧ ready.gridN ≤ ready.capacity ∧
    Loaded ready.pix ready.gridN := by decide
theorem witness_DitherIsTheIdentityOnATwoToneGrid : (words 0 [0xFF000000, 0x00FFFF00]).wf ∧
    TwoToneUpTo (words 0 [0xFF000000, 0x00FFFF00]) (2 * 1) := by decide
theorem witness_StatusWriteClears : ({ busyAt .verifying with errCode := 4 } : State).errCode.toNat ≤ 4 := by decide
theorem witness_FirstErrorIsKeptUntilCleared : ∃ s t : State, step s = .next t ∧ s.err = true ∧ t.err = true :=
  ⟨{ busyAt .verifying with err := true, errCode := 3, turns := [.host], hostOps := [.write 0x008 0] }, _, rfl,
    by decide, by decide⟩
theorem witness_IrqFollowsItsSources : ∃ s u v w : State, (s.irqEn = true ∧ s.phase = .dithering s.gridN) ∧
    (u.irqEn = true ∧ u.phase = .verifying ∧ Loaded u.pix u.gridN) ∧
    (v.irqEn = true ∧ v.phase = .idle ∧ decode 3 = .error .reservedOpcode ∧ v.done = true) ∧
    (w.irqEn = true ∧ w.phase = .idle ∧ decode 2 = .ok .verify ∧ w.capacity < w.gridN) ∧
    (u.phase ≠ .idle ∧ 15 < u.capacity ∧ (0x103C : Word).toNat = 0x1000 + 4 * 15) ∧
    (v.phase = .idle ∧ Instr.dither ≠ .nop ∧ v.gridN ≤ v.capacity) :=
  ⟨{ busyAt (.dithering 2) with irqEn := true }, { busyAt .verifying with irqEn := true },
    { State.reset with irqEn := true, done := true }, { grid 17 1 [] with irqEn := true },
    by decide, by decide, by decide, by decide, by decide, by decide⟩
theorem witness_AddressMap : Config.legalCapacity 16 ∧
    [0x002, 0x000, 0x004, 0x008, 0x00C, 0x010, 0x014, 0x018, 0x01C, 0x1000, 0x103C, 0x020, 0xFFC, 0x1040].map
      (fun a : Word => locate 16 a) =
    [.error .misaligned, .ok .id, .ok .ctrl, .ok .cmd, .ok .status, .ok .width, .ok .height, .ok .pixCount,
      .ok .capacity, .ok (.pix 0), .ok (.pix 15), .error .unmapped, .error .unmapped, .error .unmapped] := by decide
theorem witness_BusErrorsHaveNoEffect : (0x1001 : Word).toNat % 4 ≠ 0 ∧
    (0x020 ≤ (0x020 : Word).toNat ∧ (0xFFC : Word).toNat ≤ 0xFFC) ∧
    0x1000 + 4 * State.reset.capacity ≤ (0x1040 : Word).toNat ∧
    ((0x01C : Word).toNat % 4 = 0 ∧ (0x01C : Word).toNat < 0x020) ∧
    ((0x103C : Word).toNat % 4 = 0 ∧ 0x1000 ≤ (0x103C : Word).toNat ∧
      (0x103C : Word).toNat < 0x1000 + 4 * State.reset.capacity) ∧
    ∃ t, memRead 0x01C State.reset = .next t := ⟨by decide, by decide, by decide, by decide, by decide, _, rfl⟩
theorem witness_RegisterReads : State.reset.errCode.toNat ≤ 4 ∧
    ({ State.reset with errCode := 4 } : State).errCode.toNat ≤ 4 := by decide
theorem witness_RegisterWrites : State.reset.phase = .idle ∧ (busyAt (.dithering 2)).phase ≠ .idle := by decide
theorem witness_IdlePixelWriteIsReadBack : State.reset.phase = .idle ∧ 15 < State.reset.capacity ∧
    (0x103C : Word).toNat = 0x1000 + 4 * 15 ∧
    (0x1004 : Word).toNat = 0x1000 + 4 * 1 ∧ (grid 2 1 [0, 5]).pix.pixRead 1 = some (unpack 5) := by decide
theorem witness_UnwrittenHostReadFaults : State.reset.phase = .idle ∧ 15 < State.reset.capacity ∧
    (0x103C : Word).toNat = 0x1000 + 4 * 15 ∧ State.reset.pix.pixRead 15 = none := by decide
theorem witness_BusyPixelAccessConflicts : (busyAt .verifying).phase ≠ .idle ∧ 15 < (busyAt .verifying).capacity ∧
    (0x103C : Word).toNat = 0x1000 + 4 * 15 := by decide
theorem witness_HostCannotDisturbACommand : ∃ s t : State, s.phase ≠ .idle ∧ hostStep s = .next t ∧ s.done = false :=
  ⟨{ busyAt (.dithering 1) with hostOps := [.write 0x1000 5] }, _, by decide, rfl, by decide⟩
theorem witness_WaitIdleReadsUntilIdle : ∃ s u : State, (s.hostOps = [.waitIdle] ∧ s.errCode.toNat ≤ 4 ∧ s.phase = .idle) ∧
    (u.hostOps = [.waitIdle] ∧ u.errCode.toNat ≤ 4 ∧ u.phase ≠ .idle) :=
  ⟨{ State.reset with hostOps := [.waitIdle] }, { busyAt .verifying with hostOps := [.waitIdle] }, by decide, by decide⟩
theorem witness_HostProgramsExpand : Config.legalCapacity 16 ∧ 15 < 16 := by decide
theorem witness_ResetEventSetsEveryRegister : ({ busyAt (.dithering 1) with turns := [.reset] } : State).turns =
    .reset :: [] := by decide
theorem witness_OverlappedTransactionHasNoEffect : ∃ s u v w : State,
    (s.turns = .resetOverlap :: [] ∧ s.hostOps = .write 0x010 7 :: []) ∧
    (u.turns = .resetOverlap :: [] ∧ u.hostOps = .read 0x00C :: []) ∧
    (v.turns = .resetOverlap :: [] ∧ v.hostOps = .waitIdle :: []) ∧ (w.turns = .resetOverlap :: [] ∧ w.hostOps = []) :=
  ⟨{ State.reset with turns := [.resetOverlap], hostOps := [.write 0x010 7] },
    { State.reset with turns := [.resetOverlap], hostOps := [.read 0x00C] },
    { State.reset with turns := [.resetOverlap], hostOps := [.waitIdle] },
    { State.reset with turns := [.resetOverlap] }, by decide, by decide, by decide, by decide⟩
theorem witness_ResetHasTheInvariant : Config.legalCapacity 1 ∧ Config.legalCapacity 1073740800 := by decide
/-- The invariant holds in a state that a run reaches in the middle of a command, and the step goes on. -/
theorem witness_StepKeepsTheInvariant : Inv (grid 2 1 [0xFF7F7F7F, 0xFFFAFAFA]).acceptDither ∧
    ∃ t, step (grid 2 1 [0xFF7F7F7F, 0xFFFAFAFA]).acceptDither = .next t := ⟨by decide, _, rfl⟩
theorem witness_StepStopsOnlyOnUnwrittenReads : Inv (grid 2 1 [0xFF000000]).acceptDither ∧
    ∃ f, step (grid 2 1 [0xFF000000]).acceptDither = .fault f := ⟨by decide, _, rfl⟩
/-- A step of each kind goes on: acceptance, a pixel step, both completions, a reset. -/
theorem witness_PhaseTransitions : (∃ t, step ready = .next t) ∧ (∃ t, step (busyAt (.dithering 0)) = .next t) ∧
    (∃ t, step (busyAt (.dithering 2)) = .next t) ∧ (∃ t, step (busyAt .verifying) = .next t) ∧
    ∃ t, step { busyAt .verifying with turns := [.reset] } = .next t := ⟨⟨_, rfl⟩, ⟨_, rfl⟩, ⟨_, rfl⟩, ⟨_, rfl⟩, _, rfl⟩
theorem witness_OnlyCompletionSetsDone : (∃ s t : State, step s = .next t ∧ s.done = false ∧ t.done = true) ∧
    ∃ s t : State, step s = .next t ∧ s.twoTone = false ∧ t.twoTone = true :=
  ⟨⟨busyAt (.dithering 2), _, rfl, by decide, by decide⟩,
    { grid 1 1 [0xFF000000] with phase := .verifying }, _, rfl, by decide, by decide⟩
theorem witness_GridIsConstantDuringACommand : ∃ s t : State, step s = .next t ∧ s.phase ≠ .idle ∧
    NoReset (s.turns.take 1) :=
  ⟨{ busyAt (.dithering 1) with turns := [.host, .reset], hostOps := [.write 0x010 9] }, _, rfl, by decide, by decide⟩
theorem witness_PixCountFollowsTheCursor : (∃ s t : State, step s = .next t ∧ s.phase = .idle ∧ t.phase = .dithering 0) ∧
    ∃ s t : State, step s = .next t ∧ s.phase = .dithering 0 ∧ t.phase = .dithering 1 :=
  ⟨⟨ready, _, rfl, by decide, by decide⟩, busyAt (.dithering 0), _, rfl, by decide, by decide⟩
theorem witness_PixelRamChangesOnlyByWrites : (∃ s t : State, step s = .next t ∧ s.phase = .idle ∧ t.pix ≠ s.pix) ∧
    ∃ s t : State, step s = .next t ∧ s.phase = .dithering 0 ∧ t.pix ≠ s.pix :=
  ⟨⟨{ State.reset with hostOps := [.write 0x1000 5] }, _, rfl, by decide, by decide⟩,
    busyAt (.dithering 0), _, rfl, by decide, by decide⟩
/-- A command in flight, a host write that conflicts with it at the next turn, and the step that goes on. -/
theorem witness_EveryStepKeepsTheSequentialOrder : (ready.phase = .idle ∧ ready.gridN ≤ ready.capacity) ∧
    ∃ s t : State, RunsFrom 2 1 (grid 2 1 [0xFF7F7F7F, 0xFFFAFAFA]).pix s ∧ step s = .next t ∧ t.err = true :=
  ⟨by decide, { (grid 2 1 [0xFF7F7F7F, 0xFFFAFAFA]).acceptDither with
    turns := [.host], hostOps := [.write 0x1000 5] }, _, ⟨rfl, rfl, rfl, 0, rfl, by decide, rfl⟩, rfl, by decide⟩
theorem witness_StepPerformsTheTurn : HostNext { State.reset with hostOps := [.read 0x018] } (.read 0x018) ∧
    HostNext { busyAt .verifying with turns := [.host], hostOps := [.write 0x010 7] } (.write 0x010 7) ∧
    HostNext { State.reset with hostOps := [.waitIdle] } .waitIdle ∧ HostMoves State.reset ∧ State.reset.hostOps = [] ∧
    EngineMoves (busyAt .verifying) ∧ EngineMoves { State.reset with turns := [.engine] } := by decide
theorem witness_UnfixedTurnsAreFairToTheEngine : (busyAt (.dithering 1)).turns = [] ∧
    (busyAt (.dithering 1)).engineEnabled = true ∧ State.reset.engineEnabled = false ∧ State.reset.turns = [] ∧
    State.reset.phase = .idle ∧ State.reset.hostOps = [] := by decide

end Sys2Proof.Tests
end

/-! ## The state: what a step of the machine may do to it, and the register block (10_state.md) -/

namespace Sys2Proof.StateProofs

open Sys2Proof.Machine Sys2Proof.Laws

/-! ### What one step may do, up to the environment's own fields -/

/-- `u` is `s` but for the model's fields for the environment: every register, the phase and the pixel RAM agree. -/
def SameUnit (s u : State) : Prop :=
  ∃ p n ops ts, u = { s with port := p, draws := n, hostOps := ops, turns := ts }

theorem SameUnit.trans {s u v : State} (hu : SameUnit s u) (hv : SameUnit u v) : SameUnit s v := by
  obtain ⟨_, _, _, _, rfl⟩ := hu
  obtain ⟨_, _, _, _, rfl⟩ := hv
  exact ⟨_, _, _, _, rfl⟩

theorem sameUnit_refl (s : State) : SameUnit s s := ⟨_, _, _, _, rfl⟩

theorem sameUnit_setTurns (s : State) (ts : List Turn) : SameUnit s (s.setTurns ts) := ⟨_, _, _, _, rfl⟩

theorem sameUnit_setHostOps (s : State) (ops : List HostOp) : SameUnit s (s.setHostOps ops) := ⟨_, _, _, _, rfl⟩

theorem sameUnit_respond (s : State) (r : PortOut) : SameUnit s (s.respond r) := ⟨_, _, _, _, rfl⟩

theorem sameUnit_takeDraw (s : State) : SameUnit s s.takeDraw := ⟨_, _, _, _, rfl⟩

/-- Everything one step from `s` may do to the unit, where `u` is `s` with the environment's fields of the next state:
one constructor per kind of step, with its cause (20_memory.md R64). -/
inductive StepEffect (s u : State) : State → Prop where
  | nothing : StepEffect s u u
  | conflict (hb : u.busy = true) : StepEffect s u (u.raise .hostConflict)
  | wrote (a d : Word) (hop : HostNext s (.write a d)) {t : State} (hw : WriteEffect a d u t) : StepEffect s u t
  | pixelStep (hm : EngineMoves s) (i : Nat) (m : Memory) (hp : u.phase = .dithering i) (hi : i < u.gridN)
      (hs : pixelStep u.width.toNat u.height.toNat i u.pix = .ok m) : StepEffect s u (u.advance i m)
  | completeDither (hm : EngineMoves s) (hp : u.phase = .dithering u.gridN) : StepEffect s u u.completeDither
  | completeVerify (hm : EngineMoves s) (b : Bool) (hp : u.phase = .verifying)
      (hs : twoToneGrid u.pix u.gridN = .ok b) : StepEffect s u (u.completeVerify b)
  | reset (ht : ∃ ts, s.turns = .reset :: ts ∨ s.turns = .resetOverlap :: ts) : StepEffect s u u.resetEvent

/-- A host step from a state that agrees with `s`, at the host's turn, has one of the effects of a step. -/
theorem hostStep_effect {s v t : State} (hm : HostMoves s) (hv : SameUnit s v) (hops : v.hostOps = s.hostOps)
    (h : hostStep v = .next t) : ∃ u, SameUnit s u ∧ StepEffect s u t := by
  rcases hostStep_next h with ⟨-, rfl⟩ | ⟨op, ops, ho, w, hw, hwt⟩
  · exact ⟨t, hv, .nothing⟩
  · have hv' := hv.trans (sameUnit_setHostOps v ops)
    cases hw with
    | answered r =>
      have hr := hv'.trans (sameUnit_respond _ r)
      rcases hwt with rfl | ⟨-, rfl⟩
      · exact ⟨_, hr, .nothing⟩
      · exact ⟨_, hr.trans (sameUnit_setHostOps _ _), .nothing⟩
    | drawn hb r =>
      have hr := (hv'.trans (sameUnit_takeDraw _)).trans (sameUnit_respond _ r)
      rcases hwt with rfl | ⟨-, rfl⟩
      · exact ⟨_, hr, .conflict hb⟩
      · exact ⟨_, hr.trans (sameUnit_setHostOps _ (.waitIdle :: ops)), .conflict hb⟩
    | wrote a d hop r hw =>
      subst hop
      rcases hwt with rfl | ⟨hop, -⟩
      · exact ⟨_, hv'.trans (sameUnit_respond _ _), .wrote a d ⟨hm, by simp [← hops, ho]⟩ hw⟩
      · cases hop

/-- An engine step from `u`, taken at the engine's turn of `s`, has one of the effects of a step. -/
theorem engineStep_effect {s u t : State} (hm : EngineMoves s) (h : engineStep u = .next t) : StepEffect s u t := by
  rcases engineStep_next h with ⟨-, rfl⟩ | ⟨i, m, hp, hi, hs, rfl⟩ | ⟨hp, rfl⟩ | ⟨b, hp, hs, rfl⟩
  exacts [.nothing, .pixelStep hm i m hp hi hs, .completeDither hm hp, .completeVerify hm b hp hs]

/-- Every step that goes on has one of the effects of a step, on a state that is `s` but for the
environment. -/
theorem step_effect {s t : State} (h : step s = .next t) : ∃ u, SameUnit s u ∧ StepEffect s u t := by
  obtain ⟨v, hv, hturn⟩ := step_next h
  have hsv : SameUnit s v ∧ v.hostOps = s.hostOps := by
    rcases hv with rfl | ⟨x, ts, -, rfl⟩
    exacts [⟨sameUnit_refl _, rfl⟩, ⟨sameUnit_setTurns _ _, rfl⟩]
  obtain ⟨hsv, hops⟩ := hsv
  rcases hturn with ⟨hm, hh⟩ | ⟨hm, he⟩ | ⟨ht, rfl⟩ | ⟨ht, rfl⟩
  · exact hostStep_effect hm hsv hops hh
  · exact ⟨v, hsv, engineStep_effect hm he⟩
  · obtain ⟨ts, hts⟩ := List.head?_eq_some_iff.1 ht
    exact ⟨v, hsv, .reset ⟨ts, .inl hts⟩⟩
  · obtain ⟨ts, hts⟩ := List.head?_eq_some_iff.1 ht
    exact ⟨_, hsv.trans (sameUnit_setHostOps _ _), .reset ⟨ts, .inr hts⟩⟩

/-! ### The phase, PIXCOUNT, the flags and the grid -/

/-- Settles O53: the cases are the effects of a step; acceptance is the only write that changes the phase. -/
theorem phaseTransitions : Obligations.PhaseTransitions := by
  intro s t h
  obtain ⟨u, ⟨_, _, _, _, rfl⟩, he⟩ := step_effect h
  cases he with
  | nothing | conflict => exact .inl rfl
  | wrote a d hop hw =>
    cases hw with
    | acceptDither ha hd hb hn =>
      exact .inr (.inl ⟨(busy_eq_false_iff _).1 hb, hn, d, ha ▸ hop, .inl ⟨hd, rfl⟩⟩)
    | acceptVerify ha hd hb hn =>
      exact .inr (.inl ⟨(busy_eq_false_iff _).1 hb, hn, d, ha ▸ hop, .inr ⟨hd, rfl⟩⟩)
    | _ => exact .inl rfl
  | pixelStep hm i m hp hi => exact .inr (.inr (.inl ⟨i, hi, hp, rfl⟩))
  | completeDither hm hp => exact .inr (.inr (.inr (.inl ⟨hp, rfl, rfl⟩)))
  | completeVerify hm b hp => exact .inr (.inr (.inr (.inr (.inl ⟨hp, rfl, rfl⟩))))
  | reset ht => exact .inr (.inr (.inr (.inr (.inr ⟨rfl, ht⟩))))

/-- Settles O55: the cases are the effects of a step; acceptance of DITHER is the only write that changes PIXCOUNT. -/
theorem pixCountFollowsTheCursor : Obligations.PixCountFollowsTheCursor := by
  intro s t h
  obtain ⟨u, ⟨_, _, _, _, rfl⟩, he⟩ := step_effect h
  cases he with
  | wrote a d hop hw =>
    cases hw with
    | acceptDither ha hd hb hn =>
      exact .inr (.inl ⟨(busy_eq_false_iff _).1 hb, hn, ⟨d, ha ▸ hop, hd⟩, rfl, rfl⟩)
    | _ => exact .inl rfl
  | pixelStep hm i m hp hi => exact .inr (.inr (.inl ⟨i, hi, hp, rfl, rfl⟩))
  | reset ht => exact .inr (.inr (.inr ⟨rfl, ht⟩))
  | _ => exact .inl rfl

/-- No host write sets DONE or TWO_TONE (10_state.md R27, 20_memory.md R68). -/
theorem writeEffect_sets_no_flag {a d : Word} {u t : State} (h : WriteEffect a d u t) :
    (t.done = true → u.done = true) ∧ (t.twoTone = true → u.twoTone = true) := by
  cases h <;> simp

/-- Settles O54: of the effects of a step only the completions set a flag, and TWO_TONE gets the value of the scan. -/
theorem onlyCompletionSetsDone : Obligations.OnlyCompletionSetsDone := by
  intro s t h
  obtain ⟨u, ⟨_, _, _, _, rfl⟩, he⟩ := step_effect h
  cases he with
  | wrote a d hop hw =>
    obtain ⟨hdone, htone⟩ := writeEffect_sets_no_flag hw
    exact ⟨fun h0 h1 => absurd (h0.symm.trans (hdone h1)) Bool.false_ne_true,
      fun h0 h1 => absurd (h0.symm.trans (htone h1)) Bool.false_ne_true⟩
  | completeDither hm hp => exact ⟨fun _ _ => ⟨.inl hp, rfl⟩, fun h0 h1 => by simp [h0] at h1⟩
  | completeVerify hm b hp hs =>
    exact ⟨fun _ _ => ⟨.inr hp, rfl⟩, fun _ hb => ⟨hp, rfl, (twoToneGrid_ok.1 hs).2.1 hb⟩⟩
  | _ => exact ⟨fun h0 h1 => by simp [h0] at h1, fun h0 h1 => by simp [h0] at h1⟩

/-- A host write keeps PIX_CAPACITY, and WIDTH and HEIGHT too while a command is in flight. -/
theorem writeEffect_keeps_grid {a d : Word} {u t : State} (h : WriteEffect a d u t) :
    t.capacity = u.capacity ∧ (u.busy = true → t.width = u.width ∧ t.height = u.height) := by
  cases h <;> simp_all

theorem gridN_congr {s t : State} (hw : t.width = s.width) (hh : t.height = s.height) : t.gridN = s.gridN := by
  simp only [State.gridN, hw, hh]

/-- Settles O57: only a WIDTH or HEIGHT write, which needs IDLE, and a reset change the grid. -/
theorem gridIsConstantDuringACommand : Obligations.GridIsConstantDuringACommand := by
  intro s t h
  obtain ⟨u, ⟨_, _, _, _, rfl⟩, he⟩ := step_effect h
  cases he with
  | wrote a d hop hw =>
    obtain ⟨hc, hg⟩ := writeEffect_keeps_grid hw
    refine ⟨hc, fun hp _ => ?_⟩
    obtain ⟨hw, hh⟩ := hg ((busy_eq_true_iff _).2 hp)
    exact ⟨hw, hh, gridN_congr hw hh⟩
  | reset ht =>
    refine ⟨rfl, fun _ hr => ?_⟩
    obtain ⟨ts, ht | ht⟩ := ht <;> simp [NoReset, ht] at hr
  | _ => exact ⟨rfl, fun _ _ => ⟨rfl, rfl, rfl⟩⟩

/-! ### The register block on the host port -/

/-- A location that is no pixel word is mapped at its own address, whatever PIX_CAPACITY is (20_memory.md R54). -/
theorem locate_register (n : Nat) (l : Location) (hl : ∀ i, l ≠ .pix i) : locate n l.addr = .ok l := by
  cases l
  case pix i => exact absurd rfl (hl i)
  all_goals rfl

/-- A read at the address of a register is a read of that register. -/
theorem memRead_register (l : Location) (hl : ∀ i, l ≠ .pix i) (s : State) : memRead l.addr s = readLocation l s := by
  simp only [memRead, locate_register _ l hl]

/-- A write at the address of a register answers OKAY and is a write to that register. -/
theorem memWrite_register (l : Location) (hl : ∀ i, l ≠ .pix i) (d : Word) (s : State) :
    memWrite l.addr d s = writeLocation l d (s.respond (.write .okay)) := by
  simp only [memWrite, locate_register _ l hl]

/-- A STATUS read with a code that ATKD can produce returns the STATUS word and has no side effect
(10_state.md R27, R28). -/
theorem memRead_status {s : State} (h : s.errCode.toNat ≤ 4) :
    memRead 0x00C s = .next (s.respond (.read s.statusWord .okay)) := by
  have hr : errCodeReserved s.errCode = false := by simp [errCodeReserved]; omega
  calc memRead 0x00C s = readLocation .status s := memRead_register .status (by simp) s
    _ = .next (s.respond (.read s.statusWord .okay)) := by simp [readLocation, hr]

theorem guardedWrite_of_idle {f : State → State} {s : State} (h : s.phase = .idle) : guardedWrite f s = f s := by
  simp [guardedWrite, (busy_eq_false_iff s).2 h]

theorem guardedWrite_of_busy {f : State → State} {s : State} (h : s.phase ≠ .idle) :
    guardedWrite f s = s.raise .hostConflict := by
  simp [guardedWrite, (busy_eq_true_iff s).2 h]

/-- A write of WIDTH takes effect through the guard of 60_exceptions.md R156. -/
theorem memWrite_width (d : Word) (s : State) :
    memWrite 0x010 d s = .next (guardedWrite (State.setWidth d) (s.respond (.write .okay))) :=
  memWrite_register .width (by simp) d s

/-- A write of HEIGHT takes effect through the guard of 60_exceptions.md R156. -/
theorem memWrite_height (d : Word) (s : State) :
    memWrite 0x014 d s = .next (guardedWrite (State.setHeight d) (s.respond (.write .okay))) :=
  memWrite_register .height (by simp) d s

/-- Settles O33: a STATUS write is the acknowledgement of the state that has answered OKAY. -/
theorem statusWriteClears : Obligations.StatusWriteClears := fun d s =>
  ⟨memWrite_register .status (by simp) d s, memRead_status⟩

/-- CTRL reads IRQ_EN in bit 0 and 0 elsewhere (10_state.md R25). -/
theorem ctrlWord_eq (s : State) : s.ctrlWord = if s.irqEn then 1 else 0 := by
  cases h : s.irqEn <;> simp [State.ctrlWord, h]

/-- Settles O39: each read is of the register at that address. -/
theorem registerReads : Obligations.RegisterReads := by
  intro s
  refine ⟨memRead_register .id (by simp) s, ?_, memRead_register .cmd (by simp) s, memRead_status,
    memRead_register .width (by simp) s, memRead_register .height (by simp) s,
    memRead_register .pixCount (by simp) s, memRead_register .capacity (by simp) s⟩
  rw [← ctrlWord_eq]
  exact memRead_register .ctrl (by simp) s

/-- Settles O40: each write is to the register at that address; WIDTH and HEIGHT go through the guard of R156. -/
theorem registerWrites : Obligations.RegisterWrites := by
  intro d s
  refine ⟨memWrite_register .id (by simp) d s, memWrite_register .ctrl (by simp) d s, fun hp => ?_, fun hp => ?_,
    fun hp => ?_, fun hp => ?_, memWrite_register .pixCount (by simp) d s, memWrite_register .capacity (by simp) d s⟩
  · exact (memWrite_width d s).trans (congrArg _ (guardedWrite_of_idle (s := s.respond _) hp))
  · exact (memWrite_height d s).trans (congrArg _ (guardedWrite_of_idle (s := s.respond _) hp))
  · exact (memWrite_width d s).trans (congrArg _ (guardedWrite_of_busy (s := s.respond _) hp))
  · exact (memWrite_height d s).trans (congrArg _ (guardedWrite_of_busy (s := s.respond _) hp))

/-! ### The layout of STATUS -/

/-- The STATUS word as a number: its fields at their weights, with no wrap (10_state.md R27). -/
theorem statusWord_toNat (s : State) : s.statusWord.toNat =
    s.busy.toNat + 2 * s.done.toNat + 4 * s.err.toNat + 8 * s.twoTone.toNat + 256 * s.errCode.toNat := by
  have hb := s.busy.toNat_le
  have hd := s.done.toNat_le
  have he := s.err.toNat_le
  have ht := s.twoTone.toNat_le
  have hc := s.errCode.isLt
  rw [State.statusWord, BitVec.toNat_ofNat]
  omega

/-- A bit of a word is the truth value of which its number holds that bit. -/
theorem getLsbD_eq_of_toNat {w k : Nat} {x : BitVec w} {b : Bool} (h : x.toNat / 2 ^ k % 2 = b.toNat) :
    x.getLsbD k = b := by
  rw [← BitVec.testBit_toNat, Nat.testBit_eq_decide_div_mod_eq, h]
  cases b <;> rfl

/-- A bit field of a word is the shorter word that its number holds there. -/
theorem extractLsb'_eq_of_toNat {w k n : Nat} {x : BitVec w} {c : BitVec n} (h : x.toNat / 2 ^ k % 2 ^ n = c.toNat) :
    x.extractLsb' k n = c := by
  apply BitVec.eq_of_toNat_eq
  rw [BitVec.extractLsb'_toNat, Nat.shiftRight_eq_div_pow, h]

/-- A bit field of a word is 0 when its number holds 0 there. -/
theorem extractLsb'_eq_zero_of_toNat {w k n : Nat} {x : BitVec w} (h : x.toNat / 2 ^ k % 2 ^ n = 0) :
    x.extractLsb' k n = 0 :=
  extractLsb'_eq_of_toNat (h.trans BitVec.toNat_zero.symm)

/-- Settles O38: each field is the quotient and remainder of the STATUS number at its weight. -/
theorem statusWordLayout : Obligations.StatusWordLayout := by
  intro s
  have hn := statusWord_toNat s
  have hb := s.busy.toNat_le
  have hd := s.done.toNat_le
  have he := s.err.toNat_le
  have ht := s.twoTone.toNat_le
  have hc := s.errCode.isLt
  have hbusy : s.statusWord.getLsbD 0 = s.busy := getLsbD_eq_of_toNat (by omega)
  refine ⟨by rw [hbusy, busy_eq_true_iff], getLsbD_eq_of_toNat ?_, getLsbD_eq_of_toNat ?_, getLsbD_eq_of_toNat ?_,
    extractLsb'_eq_zero_of_toNat ?_, extractLsb'_eq_of_toNat ?_, extractLsb'_eq_zero_of_toNat ?_⟩
  all_goals omega

/-! ### The invariant at reset -/

/-- The error latch is clear right after reset. -/
theorem resetWith_latchInv (n : Nat) : LatchInv (State.resetWith n) := by simp [LatchInv, State.resetWith]

/-- No command is in flight right after reset. -/
theorem resetWith_flightInv (n : Nat) : FlightInv (State.resetWith n) := nofun

/-- There is no scan cursor right after reset. -/
theorem resetWith_cursorInv (n : Nat) : CursorInv (State.resetWith n) := nofun

/-- Settles O50: right after reset the RAM is empty, the latch clear, nothing in flight and the registers 0. -/
theorem resetHasTheInvariant : Obligations.ResetHasTheInvariant := by
  have hall : ∀ n, Config.legalCapacity n → Inv (State.resetWith n) := fun n hn =>
    ⟨hn, nil_memoryInv n, resetWith_latchInv n, resetWith_flightInv n, resetWith_cursorInv n, Nat.zero_le n⟩
  exact ⟨hall _ (by decide), hall⟩

end Sys2Proof.StateProofs

/-! ## The pixel RAM and the address map on the host port (20_memory.md) -/

namespace Sys2Proof.MemoryProofs

open Sys2Proof.Machine Sys2Proof.Laws Sys2Proof.StateProofs

/-! ### The targets of a pixel step lie in the grid, after the pixel (40_datapath.md R105 to R107) -/

/-- Every diffusion offset points forward in scan order: to a later row, or to the right in the same row
(40_datapath.md R105). -/
theorem offsets_forward : ∀ o ∈ offsets, 0 < o.2 ∨ (o.2 = 0 ∧ 0 < o.1) := by decide

/-- A target that is used is a pixel of the grid, at the offset from the source. -/
theorem targetIndex_eq_some {w h x y j : Nat} {o : Int × Int} (ht : targetIndex w h x y o = some j) :
    ∃ tx ty : Nat, (tx : Int) = x + o.1 ∧ (ty : Int) = y + o.2 ∧ tx < w ∧ ty < h ∧ j = ty * w + tx := by
  simp only [targetIndex] at ht
  split_ifs at ht with h1 hb
  simp only [inBounds, Bool.and_eq_true, decide_eq_true_eq] at hb
  obtain ⟨⟨⟨hx0, hxw⟩, hy0⟩, hyh⟩ := hb
  obtain ⟨tx, htx⟩ := Int.eq_ofNat_of_zero_le hx0
  obtain ⟨ty, hty⟩ := Int.eq_ofNat_of_zero_le hy0
  rw [htx] at ht hxw
  rw [hty] at ht hyh
  exact ⟨tx, ty, htx.symm, hty.symm, by omega, by omega, (Option.some.inj ht).symm⟩

/-- The index of a pixel of the grid is less than N (20_memory.md R59). -/
theorem scanIndex_lt {w h x y : Nat} (hx : x < w) (hy : y < h) : y * w + x < w * h :=
  calc y * w + x < (y + 1) * w := by rw [Nat.succ_mul]; omega
    _ ≤ h * w := Nat.mul_le_mul_right w hy
    _ = w * h := Nat.mul_comm h w

/-- The scan order is the order of the rows, and within a row that of the columns (20_memory.md R59). -/
theorem scanIndex_lt_scanIndex {w x y x' y' : Nat} (hx : x < w) (h : y < y' ∨ (y' = y ∧ x < x')) :
    y * w + x < y' * w + x' := by
  obtain h | ⟨rfl, h⟩ := h
  · calc y * w + x < w * y' := scanIndex_lt hx h
      _ = y' * w := Nat.mul_comm w y'
      _ ≤ y' * w + x' := Nat.le_add_right _ _
  · omega

/-- A target of a pixel step comes after the pixel in scan order and is in the grid (40_datapath.md R107, R115). -/
theorem lt_of_mem_stepTargets {w h i j : Nat} (hj : j ∈ stepTargets w h i) : i < j ∧ j < w * h := by
  obtain ⟨o, ho, ht⟩ := List.mem_filterMap.1 hj
  obtain ⟨tx, ty, htx, hty, hxw, hyh, rfl⟩ := targetIndex_eq_some ht
  have hcol : colOf w i < w := Nat.mod_lt i (by omega)
  have hforward : rowOf w i < ty ∨ (ty = rowOf w i ∧ colOf w i < tx) := by
    have := offsets_forward o ho
    omega
  refine ⟨?_, scanIndex_lt hxw hyh⟩
  calc i = rowOf w i * w + colOf w i := (Nat.div_add_mod' i w).symm
    _ < ty * w + tx := scanIndex_lt_scanIndex hcol hforward

/-! ### What a pixel step leaves (40_datapath.md R109) -/

/-- A pixel step leaves every byte outside the pixel and its targets as it was. -/
theorem pixelStep_readByte {w h i : Nat} {m m' : Memory} (hs : pixelStep w h i m = .ok m') {a : Nat}
    (hi : ¬ inWord i a) (ht : ∀ j ∈ stepTargets w h i, ¬ inWord j a) : m'.readByte a = m.readByte a := by
  obtain ⟨o, -, hd⟩ := pixelStep_ok hs
  rw [diffuse_readByte hd ht, readByte_pixWrite, if_neg hi]

/-- A pixel step leaves the thresholded sample at the pixel, and every word before it as it was. -/
theorem pixelStep_pixRead_of_le {w h i : Nat} {m m' : Memory} (hs : pixelStep w h i m = .ok m') :
    ∃ o, ∀ k, k ≤ i → m'.pixRead k = if i = k then some (pixThr o) else m.pixRead k := by
  obtain ⟨o, -, hd⟩ := pixelStep_ok hs
  refine ⟨o, fun k hk => ?_⟩
  have hno : k ∉ stepTargets w h i := fun hmem => absurd (lt_of_mem_stepTargets hmem).1 (Nat.not_lt.2 hk)
  rw [diffuse_pixRead hd hno, pixRead_pixWrite]

/-- A pixel step of a grid that fits the RAM keeps the memory's invariant. -/
theorem pixelStep_memoryInv {w h i n : Nat} {m m' : Memory} (hi : i < w * h) (hn : w * h ≤ n)
    (hs : pixelStep w h i m = .ok m') (hm : MemoryInv n m) : MemoryInv n m' := by
  obtain ⟨o, -, hd⟩ := pixelStep_ok hs
  exact diffuse_memoryInv hd (fun j hj => (lt_of_mem_stepTargets hj).2.trans_le hn)
    (pixWrite_memoryInv _ (hi.trans_le hn) hm)

/-- THRESHOLD gives 0 or 255 (40_datapath.md R101). -/
theorem chanTwoTone_thr (v : Byte) : chanTwoTone (thr v) = true := by
  simp only [thr]; split <;> rfl

/-- A thresholded pixel is two-tone (40_datapath.md R121). -/
theorem pixTwoTone_pixThr (o : Pixel) : pixTwoTone (pixThr o) = true := by
  simp [pixTwoTone, pixThr, mapLanes, chanTwoTone_thr]

theorem wordTwoTone_congr {m m' : Memory} {i : Nat} (h : m.pixRead i = m'.pixRead i) :
    wordTwoTone m i = wordTwoTone m' i := by
  simp only [wordTwoTone, h]

theorem wordTwoTone_of_pixRead {m : Memory} {i : Nat} {p : Pixel} (h : m.pixRead i = some p) :
    wordTwoTone m i = pixTwoTone p := by
  simp only [wordTwoTone, h]

/-- A pixel step makes its pixel two-tone and never touches the pixels visited before it (40_datapath.md R115, R116). -/
theorem pixelStep_twoToneUpTo {w h i : Nat} {m m' : Memory} (hs : pixelStep w h i m = .ok m')
    (ht : TwoToneUpTo m i) : TwoToneUpTo m' (i + 1) := by
  obtain ⟨o, ho⟩ := pixelStep_pixRead_of_le hs
  intro k hk
  have hread := ho k (Nat.lt_succ_iff.1 hk)
  by_cases hik : i = k
  · rw [if_pos hik] at hread
    rw [wordTwoTone_of_pixRead hread, pixTwoTone_pixThr]
  · rw [if_neg hik] at hread
    rw [wordTwoTone_congr hread]
    exact ht k (by omega)

/-! ### The parts of the invariant under each effect of a step -/

/-- The environment's own fields are no part of the invariant. -/
theorem inv_of_sameUnit {s u : State} (hu : SameUnit s u) (hs : Inv s) : Inv u := by
  obtain ⟨_, _, _, _, rfl⟩ := hu
  exact hs

/-- In IDLE no command is in flight and there is no cursor, so the rest of the invariant is all of it. -/
theorem inv_of_idle {s : State} (hp : s.phase = .idle) (hc : Config.legalCapacity s.capacity)
    (hm : MemoryInv s.capacity s.pix) (hl : LatchInv s) (hn : s.pixCount.toNat ≤ s.capacity) : Inv s := by
  have hflight : FlightInv s := fun hb => absurd hp ((busy_eq_true_iff s).1 hb)
  have hcursor : CursorInv s := fun i hi => by
    have := (cursor_eq_some_iff s i).1 hi
    simp [hp] at this
  exact ⟨hc, hm, hl, hflight, hcursor, hn⟩

/-- An error raised is latched with its own code, or keeps the first one (60_exceptions.md R152). -/
theorem raise_latchInv {s : State} (e : ErrorCause) (h : LatchInv s) : LatchInv (s.raise e) := by
  have hcode : e.code.toNat ≤ 4 ∧ e.code ≠ 0 := by cases e <;> decide
  cases hs : s.err with
  | false => simpa [LatchInv, hs] using hcode
  | true => simpa [LatchInv, hs] using h

/-- An acknowledgement leaves ERR and ERRCODE, or clears both (10_state.md R28). -/
theorem acknowledge_latchInv {s : State} (d : Word) (h : LatchInv s) : LatchInv (s.acknowledge d) := by
  simp only [LatchInv, acknowledge_errCode, acknowledge_err]
  split_ifs
  · simp
  · exact h

theorem raise_inv {s : State} (e : ErrorCause) (h : Inv s) : Inv (s.raise e) := by
  obtain ⟨hc, hm, hl, hf, hcur, hn⟩ := h
  exact ⟨hc, hm, raise_latchInv e hl, hf, hcur, hn⟩

theorem acknowledge_inv {s : State} (d : Word) (h : Inv s) : Inv (s.acknowledge d) := by
  obtain ⟨hc, hm, hl, hf, hcur, hn⟩ := h
  refine ⟨hc, hm, acknowledge_latchInv d hl, fun hb => ?_, hcur, hn⟩
  obtain ⟨hfit, hdone⟩ := hf hb
  exact ⟨hfit, by simp [hdone]⟩

/-- Acceptance of DITHER starts the cursor at 0, with no pixel visited (41_commands.md R132). -/
theorem acceptDither_inv {s : State} (hfit : s.gridN ≤ s.capacity) (h : Inv s) : Inv s.acceptDither := by
  obtain ⟨hc, hm, hl, -, -, -⟩ := h
  refine ⟨hc, hm, hl, fun _ => ⟨hfit, rfl⟩, fun i hi => ?_, Nat.zero_le _⟩
  obtain rfl : 0 = i := by simpa [cursor_eq_some_iff] using hi
  exact ⟨Nat.zero_le _, rfl, rfl, fun k hk => absurd hk (Nat.not_lt_zero k)⟩

/-- Acceptance of VERIFY needs a grid that fits and clears DONE (41_commands.md R135). -/
theorem acceptVerify_inv {s : State} (hfit : s.gridN ≤ s.capacity) (h : Inv s) : Inv s.acceptVerify := by
  obtain ⟨hc, hm, hl, -, -, hn⟩ := h
  exact ⟨hc, hm, hl, fun _ => ⟨hfit, rfl⟩, nofun, hn⟩

/-- A host write keeps the invariant; WIDTH, HEIGHT and the pixels are written in IDLE only. -/
theorem writeEffect_inv {a d : Word} {u t : State} (hw : WriteEffect a d u t) (h : Inv u) : Inv t := by
  have ⟨hc, hm, hl, hf, hcur, hn⟩ := h
  cases hw with
  | nothing => exact h
  | setIrqEn => exact ⟨hc, hm, hl, hf, hcur, hn⟩
  | acknowledge => exact acknowledge_inv d h
  | raise e => exact raise_inv e h
  | setWidth _ hb => exact inv_of_idle ((busy_eq_false_iff u).1 hb) hc hm hl hn
  | setHeight _ hb => exact inv_of_idle ((busy_eq_false_iff u).1 hb) hc hm hl hn
  | pixWrite i ha hb =>
    exact inv_of_idle ((busy_eq_false_iff u).1 hb) hc (pixWrite_memoryInv _ (locate_pix_lt ha) hm) hl hn
  | acceptDither _ _ _ hfit => exact acceptDither_inv hfit h
  | acceptVerify _ _ _ hfit => exact acceptVerify_inv hfit h

/-- A pixel step keeps the invariant: the cursor, PIXCOUNT and the pixels known two-tone advance together
(41_commands.md R133). -/
theorem advance_inv {s : State} {i : Nat} {m : Memory} (hp : s.phase = .dithering i) (hi : i < s.gridN)
    (hs : pixelStep s.width.toNat s.height.toNat i s.pix = .ok m) (h : Inv s) : Inv (s.advance i m) := by
  obtain ⟨hc, hm, hl, hf, hcur, -⟩ := h
  obtain ⟨hfit, hdone⟩ := hf ((busy_eq_true_iff s).2 (by simp [hp]))
  obtain ⟨-, -, htone, hvisited⟩ := hcur i ((cursor_eq_some_iff s i).2 hp)
  have hcount : (s.advance i m).pixCount.toNat = i + 1 := by
    rw [advance_pixCount, BitVec.toNat_ofNat]
    exact Nat.mod_eq_of_lt (by omega)
  refine ⟨hc, pixelStep_memoryInv hi hfit hs hm, hl, fun _ => ⟨hfit, hdone⟩, fun k hk => ?_, ?_⟩
  · obtain rfl : i + 1 = k := by simpa [cursor_eq_some_iff] using hk
    exact ⟨hi, hcount, htone, pixelStep_twoToneUpTo hs hvisited⟩
  · rw [hcount]; exact hi.trans_le hfit

/-- Each effect of a step keeps the invariant. -/
theorem stepEffect_inv {s u t : State} (he : StepEffect s u t) (h : Inv u) : Inv t := by
  have ⟨hc, hm, hl, _, _, hn⟩ := h
  cases he with
  | nothing => exact h
  | conflict => exact raise_inv _ h
  | wrote a d _ hw => exact writeEffect_inv hw h
  | pixelStep _ i m hp hi hs => exact advance_inv hp hi hs h
  | completeDither => exact inv_of_idle rfl hc hm hl hn
  | completeVerify => exact inv_of_idle rfl hc hm hl hn
  | reset => exact inv_of_idle rfl hc (nil_memoryInv _) (resetWith_latchInv u.capacity) (Nat.zero_le _)

/-- Settles O51: each of the effects that a step can have keeps the invariant. -/
theorem stepKeepsTheInvariant : Obligations.StepKeepsTheInvariant := by
  intro s t hs h
  obtain ⟨u, hu, he⟩ := step_effect h
  exact stepEffect_inv he (inv_of_sameUnit hu hs)

/-! ### The frame of the engine's and the host's steps -/

/-- Settles O22: only the pixel step stores, at the pixel and its targets, which lie in the grid. -/
theorem engineStepFrame : Obligations.EngineStepFrame := by
  intro s t h
  rcases engineStep_next h with ⟨-, rfl⟩ | ⟨i, m, hp, hi, hs, rfl⟩ | ⟨hp, rfl⟩ | ⟨b, hp, -, rfl⟩
  · simp
  · have hbytes : ∀ a, (∀ j, j < s.gridN → ¬ inWord j a) → m.readByte a = s.pix.readByte a := fun a ha =>
      pixelStep_readByte hs (ha i hi) fun j hj => ha j (lt_of_mem_stepTargets hj).2
    have hscan : ¬ ∀ j, s.phase = .dithering j → s.gridN ≤ j := fun hall => absurd (hall i hp) (Nat.not_le.2 hi)
    simpa [hscan] using hbytes
  · simp
  · simp [hp]

/-- Nothing of the command in flight has changed from `s` to `t`, and DONE has not been set. -/
def KeepsCommand (s t : State) : Prop :=
  t.phase = s.phase ∧ t.width = s.width ∧ t.height = s.height ∧ t.pix = s.pix ∧ t.pixCount = s.pixCount ∧
    t.twoTone = s.twoTone ∧ (s.done = false → t.done = false)

/-- A host write while busy keeps the command in flight: what would change it needs IDLE (20_memory.md R62). -/
theorem writeEffect_keepsCommand {a d : Word} {u t : State} (hb : u.busy = true) (hw : WriteEffect a d u t) :
    KeepsCommand u t := by
  cases hw with
  | nothing | setIrqEn | raise => exact ⟨rfl, rfl, rfl, rfl, rfl, rfl, id⟩
  | acknowledge => exact ⟨rfl, rfl, rfl, rfl, rfl, rfl, fun hd => by simp [hd]⟩
  | setWidth _ h | setHeight _ h | pixWrite _ _ h | acceptDither _ _ h | acceptVerify _ _ h =>
    exact absurd (h.symm.trans hb) Bool.false_ne_true

/-- A transaction while busy keeps the command in flight. -/
theorem hostEffect_keepsCommand {op : HostOp} {s t : State} (hb : s.busy = true) (h : HostEffect op s t) :
    KeepsCommand s t := by
  cases h with
  | answered | drawn => exact ⟨rfl, rfl, rfl, rfl, rfl, rfl, id⟩
  | wrote a d _ r hw => exact writeEffect_keepsCommand (u := s.respond (.write r)) hb hw

/-- Settles O45: a host step is at most one transaction, and none of them changes a command in flight. -/
theorem hostCannotDisturbACommand : Obligations.HostCannotDisturbACommand := by
  intro s t hp h
  rcases hostStep_next h with ⟨-, rfl⟩ | ⟨op, ops, -, u, hu, ht⟩
  · exact ⟨rfl, rfl, rfl, rfl, rfl, rfl, id⟩
  · have hkeeps : KeepsCommand s u :=
      hostEffect_keepsCommand (s := s.setHostOps ops) ((busy_eq_true_iff s).2 hp) hu
    rcases ht with rfl | ⟨-, rfl⟩
    exacts [hkeeps, hkeeps]

/-- Settles O56: of the effects of a step, three change the pixel RAM. -/
theorem pixelRamChangesOnlyByWrites : Obligations.PixelRamChangesOnlyByWrites := by
  intro s t h
  obtain ⟨u, ⟨_, _, _, _, rfl⟩, he⟩ := step_effect h
  cases he with
  | wrote a d hop hw =>
    cases hw with
    | pixWrite i ha hb =>
      have hp := (busy_eq_false_iff _).1 hb
      exact .inr (.inl ⟨hp, hp, a, d, i, hop, ha, rfl⟩)
    | _ => exact .inl rfl
  | pixelStep _ i m hp hi hs => exact .inr (.inr (.inl ⟨i, hi, hp, hs⟩))
  | reset ht => exact .inr (.inr (.inr ⟨fun _ => rfl, ht⟩))
  | _ => exact .inl rfl

/-! ### The address map (20_memory.md R52, R54 to R56) -/

theorem locate_misaligned_iff (n : Nat) (a : Word) : locate n a = .error .misaligned ↔ a.toNat % 4 ≠ 0 := by
  constructor
  · intro h
    simp only [locate] at h
    split at h
    · assumption
    · split at h <;> split at h <;> cases h
  · intro h
    simp only [locate, if_pos h]

/-- An aligned address from 0x1000 on is that of a pixel word, or past the RAM. -/
theorem locate_window {n : Nat} {a : Word} (h4 : a.toNat % 4 = 0) (h : 0x1000 ≤ a.toNat) :
    locate n a = if (a.toNat - 0x1000) / 4 < n then .ok (.pix ((a.toNat - 0x1000) / 4)) else .error .unmapped := by
  simp only [locate, h4, ne_eq, not_true_eq_false, if_false, if_pos h]

/-- A register's address is its offset, without wrap. -/
theorem addr_toNat_register {l : Location} (hl : ∀ i, l ≠ .pix i) : l.addr.toNat = l.offset := by
  cases l
  case pix i => exact absurd rfl (hl i)
  all_goals rfl

theorem locate_register_iff {n : Nat} {a : Word} {l : Location} (hl : ∀ i, l ≠ .pix i) :
    locate n a = .ok l ↔ a.toNat = l.offset := by
  rw [← addr_toNat_register hl]
  constructor
  · intro h
    rw [locate_addr h]
  · intro h
    rw [BitVec.eq_of_toNat_eq h, locate_register n l hl]

/-- The address of a pixel word of the RAM is mapped to it (20_memory.md R56). -/
theorem locate_pix {n i : Nat} {a : Word} (hi : i < n) (ha : a.toNat = 0x1000 + 4 * i) :
    locate n a = .ok (.pix i) := by
  have hindex : (a.toNat - 0x1000) / 4 = i := by omega
  rw [locate_window (by omega) (by omega), hindex, if_pos hi]

/-- With a legal PIX_CAPACITY no address of a pixel word wraps, so each word has one address. -/
theorem locate_pix_iff {n i : Nat} {a : Word} (hn : Config.legalCapacity n) :
    locate n a = .ok (.pix i) ↔ i < n ∧ a.toNat = 0x1000 + 4 * i := by
  constructor
  · intro h
    have hi := locate_pix_lt h
    obtain ⟨-, hn⟩ := hn
    refine ⟨hi, ?_⟩
    rw [locate_addr h, Location.addr, BitVec.toNat_ofNat]
    exact Nat.mod_eq_of_lt (by simp only [Location.offset, channelAddr]; omega)
  · rintro ⟨hi, ha⟩
    exact locate_pix hi ha

/-- Past the registers and past the RAM nothing is mapped (20_memory.md R54, R55). -/
theorem locate_unmapped {n : Nat} {a : Word} (h4 : a.toNat % 4 = 0)
    (h : (0x020 ≤ a.toNat ∧ a.toNat ≤ 0xFFC) ∨ 0x1000 + 4 * n ≤ a.toNat) : locate n a = .error .unmapped := by
  by_cases hw : 0x1000 ≤ a.toNat
  · rw [locate_window h4 hw, if_neg (by omega)]
  · simp only [locate, h4, ne_eq, not_true_eq_false, if_false, if_neg hw]
    split
    case h_9 => rfl
    all_goals omega

/-- An aligned address of the register block or of the RAM is mapped (20_memory.md R54). -/
theorem locate_mapped {n : Nat} {a : Word} (h4 : a.toNat % 4 = 0)
    (h : a.toNat < 0x020 ∨ (0x1000 ≤ a.toNat ∧ a.toNat < 0x1000 + 4 * n)) : ∃ l, locate n a = .ok l := by
  rcases h with h | ⟨h1, h2⟩
  · have hreg : a.toNat = Location.id.offset ∨ a.toNat = Location.ctrl.offset ∨ a.toNat = Location.cmd.offset ∨
        a.toNat = Location.status.offset ∨ a.toNat = Location.width.offset ∨ a.toNat = Location.height.offset ∨
        a.toNat = Location.pixCount.offset ∨ a.toNat = Location.capacity.offset := by
      simp only [Location.offset]; omega
    rcases hreg with h | h | h | h | h | h | h | h
    all_goals exact ⟨_, (locate_register_iff (by simp)).2 h⟩
  · exact ⟨_, locate_pix (i := (a.toNat - 0x1000) / 4) (by omega) (by omega)⟩

theorem locate_unmapped_iff {n : Nat} {a : Word} : locate n a = .error .unmapped ↔
    a.toNat % 4 = 0 ∧ ((0x020 ≤ a.toNat ∧ a.toNat ≤ 0xFFC) ∨ 0x1000 + 4 * n ≤ a.toNat) := by
  constructor
  · intro h
    have h4 : a.toNat % 4 = 0 := by
      by_contra h4
      simp [(locate_misaligned_iff n a).2 h4] at h
    refine ⟨h4, ?_⟩
    by_contra hrange
    obtain ⟨l, hl⟩ := locate_mapped (n := n) h4 (by omega)
    simp [hl] at h
  · rintro ⟨h4, h⟩
    exact locate_unmapped h4 h

/-- Settles O36: each case of the map is characterised on its own. -/
theorem addressMap : Obligations.AddressMap := fun n a hn =>
  ⟨locate_misaligned_iff n a, locate_register_iff (by simp), locate_register_iff (by simp),
    locate_register_iff (by simp), locate_register_iff (by simp), locate_register_iff (by simp),
    locate_register_iff (by simp), locate_register_iff (by simp), locate_register_iff (by simp),
    fun _ => locate_pix_iff hn, locate_unmapped_iff⟩

/-! ### The responses of the host port (20_memory.md R51, R55) -/

section
variable {a : Word} {s : State}

theorem memRead_of_error {e : BusError} (h : locate s.capacity a = .error e) :
    memRead a s = .next (s.respond (.read 0 .error)) := by
  simp only [memRead, h]

theorem memWrite_of_error {e : BusError} (d : Word) (h : locate s.capacity a = .error e) :
    memWrite a d s = .next (s.respond (.write .error)) := by
  simp only [memWrite, h]

theorem memRead_of_ok {l : Location} (h : locate s.capacity a = .ok l) : memRead a s = readLocation l s := by
  simp only [memRead, h]

theorem memWrite_of_ok {l : Location} (d : Word) (h : locate s.capacity a = .ok l) :
    memWrite a d s = writeLocation l d (s.respond (.write .okay)) := by
  simp only [memWrite, h]

end

/-- A read of a mapped location that goes on answers OKAY. -/
theorem readLocation_port {l : Location} {s t : State} (h : readLocation l s = .next t) :
    ∃ v, t.port = some (.read v .okay) := by
  cases l <;> simp only [readLocation] at h
  case status =>
    split at h
    · cases h
    · cases h; exact ⟨_, rfl⟩
  case pix i =>
    split at h
    · cases h; exact ⟨_, rfl⟩
    · split at h
      · cases h; exact ⟨_, rfl⟩
      · cases h
  all_goals cases h; exact ⟨_, rfl⟩

theorem writeEffect_port {a d : Word} {u t : State} (h : WriteEffect a d u t) : t.port = u.port := by
  cases h <;> rfl

theorem guardedWrite_port {f : State → State} {s : State} (hf : (f s).port = s.port) :
    (guardedWrite f s).port = s.port := by
  simp only [guardedWrite]
  split
  exacts [rfl, hf]

/-- A write to a mapped location leaves the response as it was given. -/
theorem writeLocation_port {l : Location} {d : Word} {s t : State} (h : writeLocation l d s = .next t) :
    t.port = s.port := by
  cases l <;> simp only [writeLocation] at h
  case cmd => exact writeEffect_port (cmdWrite_effect h)
  case width | height | pix => cases h; exact guardedWrite_port rfl
  all_goals cases h; rfl

/-- Settles O37: a transaction answers ERROR where the map has no location, and else OKAY. -/
theorem busErrorsHaveNoEffect : Obligations.BusErrorsHaveNoEffect := by
  intro a d s
  constructor
  · intro h
    obtain ⟨e, he⟩ : ∃ e, locate s.capacity a = .error e := by
      by_cases h4 : a.toNat % 4 = 0
      · exact ⟨_, locate_unmapped h4 (h.resolve_left (not_not.2 h4))⟩
      · exact ⟨_, (locate_misaligned_iff _ a).2 h4⟩
    exact ⟨memRead_of_error he, memWrite_of_error d he⟩
  · intro h4 h
    obtain ⟨l, hl⟩ := locate_mapped h4 h
    refine ⟨fun t ht => readLocation_port ((memRead_of_ok hl).symm.trans ht), ?_⟩
    obtain ⟨t, ht⟩ := memWrite_total a d s
    exact ⟨t, ht, writeLocation_port ((memWrite_of_ok d hl).symm.trans ht)⟩

/-! ### Pixel words on the host port (20_memory.md R57, R61, R62) -/

/-- The channels of a pixel fill a word without wrap (20_memory.md R57). -/
theorem pack_toNat (p : Pixel) :
    (pack p).toNat = p.r.toNat + 256 * p.g.toNat + 65536 * p.b.toNat + 16777216 * p.a.toNat := by
  have hr := p.r.isLt
  have hg := p.g.isLt
  have hb := p.b.isLt
  have ha := p.a.isLt
  rw [pack, BitVec.toNat_ofNat]
  omega

/-- Each byte of a packed word is the channel that R57 puts there. -/
theorem unpack_pack (p : Pixel) : unpack (pack p) = p := by
  have hn := pack_toNat p
  have hr := p.r.isLt
  have hg := p.g.isLt
  have hb := p.b.isLt
  have ha := p.a.isLt
  have er : (pack p).extractLsb' 0 8 = p.r := extractLsb'_eq_of_toNat (by omega)
  have eg : (pack p).extractLsb' 8 8 = p.g := extractLsb'_eq_of_toNat (by omega)
  have eb : (pack p).extractLsb' 16 8 = p.b := extractLsb'_eq_of_toNat (by omega)
  have ea : (pack p).extractLsb' 24 8 = p.a := extractLsb'_eq_of_toNat (by omega)
  simp only [unpack, er, eg, eb, ea]

/-- A word is the sum of its bytes at their weights. -/
theorem pack_unpack (w : Word) : pack (unpack w) = w := by
  apply BitVec.eq_of_toNat_eq
  rw [pack_toNat]
  simp only [unpack, BitVec.extractLsb'_toNat, Nat.shiftRight_eq_div_pow]
  omega

/-- Settles O41: packing does not wrap, and each byte of the word is one channel. -/
theorem pixelPacking : Obligations.PixelPacking := ⟨fun p => ⟨pack_toNat p, unpack_pack p⟩, pack_unpack⟩

section
variable {s : State} {i : Nat} {a : Word}

/-- In IDLE a read of a written pixel word returns it (20_memory.md R61). -/
theorem memRead_pix_of_idle {p : Pixel} (hp : s.phase = .idle) (hl : locate s.capacity a = .ok (.pix i))
    (hr : s.pix.pixRead i = some p) : memRead a s = .next (s.respond (.read (pack p) .okay)) := by
  simp [memRead_of_ok hl, readLocation, (busy_eq_false_iff s).2 hp, hr]

/-- In IDLE a write of a pixel word stores it (20_memory.md R61). -/
theorem memWrite_pix_of_idle (d : Word) (hp : s.phase = .idle) (hl : locate s.capacity a = .ok (.pix i)) :
    memWrite a d s = .next ((s.respond (.write .okay)).setPix (s.pix.pixWrite i (unpack d))) := by
  rw [memWrite_of_ok d hl, writeLocation, guardedWrite_of_idle (s := s.respond _) hp]
  rfl

/-- While busy a read of a pixel word raises HOST_CONFLICT and takes a draw (20_memory.md R62). -/
theorem memRead_pix_of_busy (hp : s.phase ≠ .idle) (hl : locate s.capacity a = .ok (.pix i)) : memRead a s =
    .next (((s.raise .hostConflict).takeDraw).respond (.read (Config.draw s.draws) .okay)) := by
  simp [memRead_of_ok hl, readLocation, (busy_eq_true_iff s).2 hp]

/-- While busy a write of a pixel word is dropped and raises HOST_CONFLICT (20_memory.md R62). -/
theorem memWrite_pix_of_busy (d : Word) (hp : s.phase ≠ .idle) (hl : locate s.capacity a = .ok (.pix i)) :
    memWrite a d s = .next ((s.respond (.write .okay)).raise .hostConflict) := by
  rw [memWrite_of_ok d hl, writeLocation, guardedWrite_of_busy (s := s.respond _) hp]

end

/-- Settles O42: the word read back is the packing of the pixel that was unpacked from it. -/
theorem idlePixelWriteIsReadBack : Obligations.IdlePixelWriteIsReadBack := by
  intro s i a d hp hi ha
  have hl := locate_pix hi ha
  have hstored : (s.pix.pixWrite i (unpack d)).pixRead i = some (unpack d) := by rw [pixRead_pixWrite, if_pos rfl]
  refine ⟨fun p hr => memRead_pix_of_idle hp hl hr, s.pix.pixWrite i (unpack d), memWrite_pix_of_idle d hp hl,
    hstored, fun b hb => ?_, ?_⟩
  · rw [readByte_pixWrite, if_neg hb]
  · have hread := memRead_pix_of_idle (s := (s.respond (.write .okay)).setPix _) hp hl hstored
    rw [pack_unpack] at hread
    exact hread

/-- Settles O44: the guard of 60_exceptions.md R156 drops the write, and the read takes a draw. -/
theorem busyPixelAccessConflicts : Obligations.BusyPixelAccessConflicts := by
  intro s i a d hp hi ha
  have hl := locate_pix hi ha
  exact ⟨memWrite_pix_of_busy d hp hl, Config.draw s.draws, memRead_pix_of_busy hp hl⟩

/-! ### The turn that a step performs (20_memory.md R51, R64) -/

/-- The host's step performs its oldest operation, which is over. -/
theorem hostStep_of_head {s : State} {op : HostOp} (h : s.hostOps.head? = some op) :
    hostStep s = performOp op { s with hostOps := s.hostOps.tail } := by
  obtain ⟨ops, hops⟩ := List.head?_eq_some_iff.1 h
  simp only [hostStep, hops, List.tail_cons]
  rfl

/-- With no operation the host's step does nothing (log 3). -/
theorem hostStep_of_nil {s : State} (h : s.hostOps = []) : hostStep s = .next s := by
  simp only [hostStep, h]

/-- Settles O60: the step is that of the agent whose turn it is, and the host's is its oldest operation. -/
theorem stepPerformsTheTurn : Obligations.StepPerformsTheTurn := by
  intro s
  have hnext : ∀ op, HostNext s op →
      step s = performOp op { s with turns := s.turns.tail, hostOps := s.hostOps.tail } := fun op ⟨hm, hop⟩ =>
    (step_of_hostMoves hm).trans (hostStep_of_head (s := { s with turns := s.turns.tail }) hop)
  exact ⟨fun a => hnext (.read a), fun a d => hnext (.write a d), fun ⟨hm, _⟩ => step_of_hostMoves hm,
    fun hm hops => (step_of_hostMoves hm).trans (hostStep_of_nil hops), step_of_engineMoves⟩

end Sys2Proof.MemoryProofs

/-! ## The encoding of commands and of host programs (30_encoding.md) -/

namespace Sys2Proof.EncodingProofs

open Sys2Proof.Machine Sys2Proof.Laws Sys2Proof.StateProofs Sys2Proof.MemoryProofs

/-! ### The decoder (30_encoding.md R81 to R85) -/

/-- OP is the low byte of the word's number (30_encoding.md R81). -/
theorem cmdOp_toNat (d : Word) : (cmdOp d).toNat = d.toNat % 256 := by
  rw [cmdOp, BitVec.extractLsb'_toNat, Nat.shiftRight_zero]

/-- RSVD is what the word's number holds above its low byte (30_encoding.md R81). -/
theorem cmdRsvd_eq_zero_iff (d : Word) : cmdRsvd d = 0 ↔ d.toNat / 256 = 0 := by
  rw [← BitVec.toNat_inj, cmdRsvd, BitVec.extractLsb'_toNat, Nat.shiftRight_eq_div_pow, BitVec.ofNat_eq_ofNat,
    BitVec.toNat_zero]
  have hd := d.isLt
  omega

theorem decode_of_reservedBits {d : Word} (h : d.toNat / 256 ≠ 0) : decode d = .error .reservedBits :=
  if_pos (mt (cmdRsvd_eq_zero_iff d).1 h)

theorem decode_of_reservedOpcode {d : Word} (hr : d.toNat / 256 = 0) (ho : 3 ≤ d.toNat % 256) :
    decode d = .error .reservedOpcode := by
  rw [← cmdOp_toNat] at ho
  rw [decode, if_neg (not_not.2 ((cmdRsvd_eq_zero_iff d).2 hr))]
  split
  case h_4 => rfl
  all_goals omega

theorem decode_encode (i : Instr) : decode (encode i) = .ok i := by cases i <;> rfl

/-- A word that is not illegal is the encoding of an instruction (30_encoding.md R83, R84). -/
theorem exists_eq_encode {d : Word} (h : ¬ (d.toNat / 256 ≠ 0 ∨ 3 ≤ d.toNat % 256)) : ∃ i, d = encode i := by
  have hd : d.toNat = 0 ∨ d.toNat = 1 ∨ d.toNat = 2 := by omega
  obtain h0 | h1 | h2 := hd
  · exact ⟨.nop, BitVec.eq_of_toNat_eq h0⟩
  · exact ⟨.dither, BitVec.eq_of_toNat_eq h1⟩
  · exact ⟨.verify, BitVec.eq_of_toNat_eq h2⟩

theorem decode_illegal_iff (d : Word) :
    (∃ e, decode d = .error e) ↔ d.toNat / 256 ≠ 0 ∨ 3 ≤ d.toNat % 256 := by
  constructor
  · rintro ⟨e, he⟩
    by_contra hlegal
    obtain ⟨i, rfl⟩ := exists_eq_encode hlegal
    simp [decode_encode] at he
  · intro h
    by_cases hr : d.toNat / 256 = 0
    · exact ⟨_, decode_of_reservedOpcode hr (h.resolve_left (not_not.2 hr))⟩
    · exact ⟨_, decode_of_reservedBits hr⟩

/-- A word decodes to an instruction exactly when it is its encoding. -/
theorem decode_eq_ok_iff {d : Word} {i : Instr} : decode d = .ok i ↔ d = encode i := by
  constructor
  · intro h
    have hlegal : ¬ ∃ e, decode d = .error e := by simp [h]
    obtain ⟨j, rfl⟩ := exists_eq_encode (mt (decode_illegal_iff d).2 hlegal)
    rw [decode_encode, Except.ok.injEq] at h
    rw [h]
  · rintro rfl
    exact decode_encode i

/-- A 32-bit table word is the word itself. -/
theorem tableWord_toNat (d : Word) : tableWord 32 d.toNat = d := by
  rw [tableWord, Nat.mod_eq_of_lt d.isLt, BitVec.ofNat_toNat, BitVec.setWidth_eq]

/-- Settles O3: the decoder refuses by RSVD or by OP, and otherwise the word encodes what it gives. -/
theorem exactlyThreeWordsAreLegal : Obligations.ExactlyThreeWordsAreLegal := fun d =>
  ⟨decode_illegal_iff d, decode_eq_ok_iff, decode_eq_ok_iff, decode_eq_ok_iff⟩

/-- Settles O1: three of the words are encodings, two have a reserved OP, and four have RSVD ≠ 0. -/
theorem commandWordsDecode : Obligations.CommandWordsDecode :=
  ⟨decode_encode .nop, decode_encode .dither, decode_encode .verify,
    decode_of_reservedOpcode (by decide) (by decide), decode_of_reservedOpcode (by decide) (by decide),
    decode_of_reservedBits (by decide), decode_of_reservedBits (by decide), decode_of_reservedBits (by decide),
    decode_of_reservedBits (by decide)⟩

/-- Settles O2: the table word of an encoding is that encoding. -/
theorem decodeOfEncodeIsTheInstruction : Obligations.DecodeOfEncodeIsTheInstruction := by
  intro i _
  refine ⟨decode_encode i, ?_⟩
  rw [decodeTableWord, if_pos le_rfl, tableWord_toNat, decode_encode]
  rfl

/-! ### `WAIT.IDLE` (30_encoding.md R88) -/

/-- Bit 0 of the STATUS word is BUSY (10_state.md R27). -/
theorem statusWord_busyBit (s : State) : s.statusWord.getLsbD 0 = s.busy := by
  obtain ⟨hbit, -⟩ := statusWordLayout s
  rw [Bool.eq_iff_iff, hbit, busy_eq_true_iff]

/-- One read of the loop: it goes on exactly while the read returns BUSY = 1. -/
theorem waitIdleRead_of_status {s : State} (h : s.errCode.toNat ≤ 4) :
    waitIdleRead s = .next { s with
      port := some (.read s.statusWord .okay)
      hostOps := if s.phase = .idle then s.hostOps else .waitIdle :: s.hostOps } := by
  have hread : memRead (Location.addr .status) s = .next (s.respond (.read s.statusWord .okay)) := memRead_status h
  have hbit : (s.respond (.read s.statusWord .okay)).readBusyBit = s.busy := statusWord_busyBit s
  simp only [waitIdleRead, hread, hbit, busy_eq_true_iff]
  by_cases hp : s.phase = .idle
  · rw [if_neg (not_not.2 hp), if_pos hp]
    rfl
  · rw [if_pos hp, if_neg hp]
    rfl

/-- Settles O46: the host's turn is one read of the loop, with the operations that follow it left to do. -/
theorem waitIdleReadsUntilIdle : Obligations.WaitIdleReadsUntilIdle := by
  intro s ops hops he
  have htail : s.hostOps.tail = ops := by rw [hops, List.tail_cons]
  rw [hostStep_of_head (op := .waitIdle) (by rw [hops, List.head?_cons]), htail]
  exact waitIdleRead_of_status (s := { s with hostOps := ops }) he

/-! ### The expansion of host programs (30_encoding.md R87 to R89) -/

/-- `LOAD` writes its values to the words from its index on (30_encoding.md R88). -/
theorem getElem?_loadOps (i j : Nat) (ps : List HostValue) :
    (loadOps i ps)[j]? = ps[j]?.map fun p => .write (Location.addr (.pix (i + j))) (valueWord p) := by
  induction ps generalizing i j with
  | nil => rfl
  | cons p ps ih =>
    cases j with
    | zero => rfl
    | succ j =>
      rw [loadOps, List.getElem?_cons_succ, List.getElem?_cons_succ, ih, Nat.succ_add_eq_add_succ]

/-- `DUMP` reads the words from its index on (30_encoding.md R88). -/
theorem getElem?_dumpOps (i j k : Nat) :
    (dumpOps i k)[j]? = if j < k then some (.read (Location.addr (.pix (i + j)))) else none := by
  induction k generalizing i j with
  | zero => rfl
  | succ k ih =>
    cases j with
    | zero => rfl
    | succ j =>
      simp only [dumpOps, List.getElem?_cons_succ, ih, Nat.succ_add_eq_add_succ, Nat.add_lt_add_iff_right]

theorem encodeProgram_singleton (p : HostStmt) : encodeProgram [p] = expandStmt p := List.flatMap_singleton expandStmt p

theorem encodeProgram_append (p q : List HostStmt) : encodeProgram (p ++ q) = encodeProgram p ++ encodeProgram q :=
  List.flatMap_append

/-- With a legal PIX_CAPACITY the address of a pixel word does not wrap (20_memory.md R56). -/
theorem addr_toNat_pix {n i : Nat} (hn : Config.legalCapacity n) (hi : i < n) :
    (Location.addr (.pix i)).toNat = 0x1000 + 4 * i := by
  obtain ⟨-, hmax⟩ := hn
  rw [Location.addr, BitVec.toNat_ofNat, Location.offset, channelAddr, Nat.add_zero]
  exact Nat.mod_eq_of_lt (by omega)

/-- Settles O47: the names and values by evaluation, LOAD and DUMP word by word, and the packed word by R57. -/
theorem hostProgramsExpand : Obligations.HostProgramsExpand := by
  refine ⟨rfl, fun _ _ _ => rfl, fun i j ps => ?_, fun i j k => ?_, encodeProgram_append, rfl,
    fun _ _ hn hi => addr_toNat_pix hn hi, fun _ => rfl, fun _ => rfl, fun _ _ _ _ => pack_toNat _⟩
  · rw [encodeProgram_singleton]
    exact getElem?_loadOps i j ps
  · rw [encodeProgram_singleton]
    exact getElem?_dumpOps i j k

end Sys2Proof.EncodingProofs


/-! ## The datapath and the whole DITHER command (40_datapath.md) -/

namespace Sys2Proof.DatapathProofs

open Sys2Proof.Machine Sys2Proof.Laws Sys2Proof.StateProofs Sys2Proof.MemoryProofs

/-! ### The per-channel operations (R101 to R104) -/

/-- Settles O10: the constants of THRESHOLD are those of 00_scope.md R9. -/
theorem thresholdSplitsAt128 : Obligations.ThresholdSplitsAt128 := fun _ => rfl

theorem satsub8_toNat (a b : Byte) : (satsub8 a b).toNat = a.toNat - b.toNat := by
  have ha := a.isLt
  rw [satsub8, BitVec.toNat_ofNat]
  omega

theorem satadd8_toNat (a b : Byte) : (satadd8 a b).toNat = min 255 (a.toNat + b.toNat) := by
  rw [satadd8, BitVec.toNat_ofNat]
  omega

theorem chanErr_toNat (o n : Byte) : (chanErr o n).toNat = (satsub8 o n).toNat / 8 := by
  rw [chanErr, BitVec.toNat_ushiftRight, Nat.shiftRight_eq_div_pow]
  rfl

/-- A darkened sample loses all of its value, a brightened one nothing (R103). -/
theorem chanErr_thr_toNat (o : Byte) : (chanErr o (thr o)).toNat = if o.toNat < 128 then o.toNat / 8 else 0 := by
  have ho := o.isLt
  rw [chanErr_toNat, satsub8_toNat, thresholdSplitsAt128]
  split
  · rw [BitVec.ofNat_eq_ofNat, BitVec.toNat_zero, Nat.sub_zero]
  · have hhi : (255 : Byte).toNat = 255 := rfl
    rw [hhi]
    omega

/-- Settles O11: the clamped value of each operation is a byte, so the word that holds it does not wrap. -/
theorem channelArithmeticSaturates : Obligations.ChannelArithmeticSaturates := by
  refine fun a b => ⟨?_, satadd8_toNat a b⟩
  rw [satsub8_toNat]
  omega

/-- Settles O12: a sample below 128 loses itself, and an eighth of at most 127 is at most 15. -/
theorem errorIsAnEighthOfTheDarkening : Obligations.ErrorIsAnEighthOfTheDarkening := by
  refine ⟨chanErr_toNat, fun o => ⟨chanErr_thr_toNat o, ?_⟩⟩
  rw [chanErr_thr_toNat]
  split <;> omega

/-! ### The lanes (R100) -/

@[simp] theorem laneOf_mapLanes (f : Byte → Byte) (p : Pixel) (c : Nat) :
    laneOf (mapLanes f p) c = f (laneOf p c) := by
  rcases c with _ | _ | _ | c <;> rfl

@[simp] theorem laneOf_zipLanes (f : Byte → Byte → Byte) (p q : Pixel) (c : Nat) :
    laneOf (zipLanes f p q) c = f (laneOf p c) (laneOf q c) := by
  rcases c with _ | _ | _ | c <;> rfl

theorem laneOf_pixThr (o : Pixel) (c : Nat) : laneOf (pixThr o) c = thr (laneOf o c) := laneOf_mapLanes thr o c

theorem laneOf_pixErr (o : Pixel) (c : Nat) : laneOf (pixErr o) c = chanErr (laneOf o c) (thr (laneOf o c)) := by
  rw [pixErr, laneOf_zipLanes, laneOf_pixThr]

theorem laneOf_pixAdd (t e : Pixel) (c : Nat) : laneOf (pixAdd t e) c = satadd8 (laneOf t c) (laneOf e c) :=
  laneOf_zipLanes satadd8 t e c

theorem chanTwoTone_iff (v : Byte) : chanTwoTone v = true ↔ v = 0 ∨ v = 255 := by
  simp [chanTwoTone, Config.levelLo, Config.levelHi]

/-- Each lane of a two-tone pixel is 0 or 255 (R121). -/
theorem laneOf_of_pixTwoTone {p : Pixel} (hp : pixTwoTone p = true) (c : Nat) : laneOf p c = 0 ∨ laneOf p c = 255 := by
  simp only [pixTwoTone, Bool.and_eq_true, chanTwoTone_iff] at hp
  obtain ⟨⟨⟨hr, hg⟩, hb⟩, ha⟩ := hp
  match c with
  | 0 => exact hr
  | 1 => exact hg
  | 2 => exact hb
  | _ + 3 => exact ha

/-- In a two-tone grid every channel of every word is 0 or 255 (R116). -/
theorem channels_of_twoToneUpTo {m : Memory} {n i : Nat} (hm : TwoToneUpTo m n) (hi : i < n) :
    ∃ p, m.pixRead i = some p ∧ ∀ c, c < 4 → laneOf p c = 0 ∨ laneOf p c = 255 := by
  have hword := hm i hi
  cases hp : m.pixRead i with
  | none => simp [wordTwoTone, hp] at hword
  | some p => exact ⟨p, rfl, fun c _ => laneOf_of_pixTwoTone ((wordTwoTone_of_pixRead hp).symm.trans hword) c⟩

/-! ### The targets of a pixel step (R105 to R107, R115) -/

/-- Every offset but (-1, +1) leads to the right or down, where only the far edges bound it (R107). -/
theorem targetIndex_add (w h x y dx dy : Nat) : targetIndex w h x y (dx, dy) =
    if x + dx < w ∧ y + dy < h then some ((y + dy) * w + (x + dx)) else none := by
  have hoffset : ((dx : Int), (dy : Int)) ≠ (-1, 1) := by simp only [ne_eq, Prod.mk.injEq]; omega
  have hbounds : inBounds w h (x + dx) (y + dy) = true ↔ x + dx < w ∧ y + dy < h := by
    simp only [inBounds, Bool.and_eq_true, decide_eq_true_eq]
    omega
  rw [targetIndex, if_neg (fun hc => hoffset hc.1)]
  simp only [hbounds]
  rfl

/-- The offset (-1, +1) is used at x ≠ 0 only, and then leads to the column before (R106). -/
theorem targetIndex_left (w h x y : Nat) : targetIndex w h x y (-1, 1) =
    if x ≠ 0 ∧ x - 1 < w ∧ y + 1 < h then some ((y + 1) * w + (x - 1)) else none := by
  by_cases hx : x = 0
  · simp [targetIndex, hx]
  · obtain ⟨x, rfl⟩ := Nat.exists_eq_succ_of_ne_zero hx
    have hcol : ((x + 1 : Nat) : Int) + -1 = x := by omega
    have hbounds : inBounds w h x (y + 1) = true ↔ x < w ∧ y + 1 < h := by
      simp only [inBounds, Bool.and_eq_true, decide_eq_true_eq]
      omega
    simp only [targetIndex, hx, and_false, if_false, Nat.succ_eq_add_one, hcol, hbounds, ne_eq, not_false_eq_true,
      true_and, Nat.add_sub_cancel]
    rfl

/-- The used and in-bounds targets of a pixel of the grid, one for each offset. -/
theorem mem_targets_iff {w h x y j : Nat} (hx : x < w) (hy : y < h) : j ∈ targets w h x y ↔
    (x + 1 < w ∧ j = y * w + (x + 1)) ∨ (x + 2 < w ∧ j = y * w + (x + 2)) ∨
    (x ≠ 0 ∧ y + 1 < h ∧ j = (y + 1) * w + (x - 1)) ∨ (y + 1 < h ∧ j = (y + 1) * w + x) ∨
    (x + 1 < w ∧ y + 1 < h ∧ j = (y + 1) * w + (x + 1)) ∨ (y + 2 < h ∧ j = (y + 2) * w + x) := by
  have hleft : x - 1 < w := by omega
  have h10 := targetIndex_add w h x y 1 0
  have h20 := targetIndex_add w h x y 2 0
  have h01 := targetIndex_add w h x y 0 1
  have h11 := targetIndex_add w h x y 1 1
  have h02 := targetIndex_add w h x y 0 2
  push_cast at h10 h20 h01 h11 h02
  simp only [targets, offsets, List.mem_filterMap, List.mem_cons, List.not_mem_nil, or_false, exists_eq_or_imp,
    exists_eq_left, h10, h20, targetIndex_left, h01, h11, h02, Option.ite_none_right_eq_some, Option.some.injEq,
    Nat.add_zero, hx, hy, hleft, true_and, and_true, and_assoc, eq_comm (b := j)]

/-- Settles O13: each offset contributes its target exactly under R106's and R107's conditions. -/
theorem targetsAreTheInBoundsOffsets : Obligations.TargetsAreTheInBoundsOffsets := fun _ _ _ _ _ => mem_targets_iff

/-- No two pixels of a grid have one index (20_memory.md R59). -/
theorem scanIndex_inj {w x y x' y' : Nat} (hx : x < w) (hx' : x' < w) (h : y * w + x = y' * w + x') :
    x = x' ∧ y = y' := by
  obtain hlt | rfl | hlt := Nat.lt_trichotomy y y'
  · exact absurd h (scanIndex_lt_scanIndex hx (.inl hlt)).ne
  · exact ⟨Nat.add_left_cancel h, rfl⟩
  · exact absurd h (scanIndex_lt_scanIndex hx' (.inl hlt)).ne'

/-- The targets of a pixel are distinct: an index gives back its coordinates, and they the offset (R112). -/
theorem targets_nodup (w h x y : Nat) : (targets w h x y).Nodup := by
  refine List.Nodup.filterMap (fun o o' j hj hj' => ?_) (by decide)
  obtain ⟨tx, ty, htx, hty, hw, -, hind⟩ := targetIndex_eq_some hj
  obtain ⟨tx', ty', htx', hty', hw', -, hind'⟩ := targetIndex_eq_some hj'
  obtain ⟨hcol, hrow⟩ := scanIndex_inj hw hw' (hind.symm.trans hind')
  exact Prod.ext (by omega) (by omega)

theorem stepTargets_nodup (w h i : Nat) : (stepTargets w h i).Nodup := targets_nodup w h (colOf w i) (rowOf w i)

/-- The indices of R115's table. -/
theorem index_of_mem_stepTargets {w h i j : Nat} (hi : i < w * h) (hj : j ∈ stepTargets w h i) :
    j = i + 1 ∨ j = i + 2 ∨ (i % w ≠ 0 ∧ j = i + w - 1) ∨ j = i + w ∨ j = i + w + 1 ∨ j = i + 2 * w := by
  have hcol : colOf w i < w := Nat.mod_lt i (Nat.pos_of_mul_pos_right (Nat.zero_lt_of_lt hi))
  have hrow : rowOf w i < h := Nat.div_lt_of_lt_mul hi
  have hindex : rowOf w i * w + colOf w i = i := Nat.div_add_mod' i w
  have hmod : colOf w i = i % w := rfl
  have hnext : (rowOf w i + 1) * w = rowOf w i * w + w := Nat.succ_mul _ _
  have hnext2 : (rowOf w i + 2) * w = rowOf w i * w + 2 * w := Nat.add_mul _ _ _
  have hcases := (mem_targets_iff hcol hrow).1 hj
  omega

/-- Settles O14: the indices are those of the coordinates, and each offset points forward in scan order. -/
theorem targetsLieAheadAndAreDistinct : Obligations.TargetsLieAheadAndAreDistinct := fun w h i hi =>
  ⟨fun _ hj => ⟨index_of_mem_stepTargets hi hj, lt_of_mem_stepTargets hj⟩, stepTargets_nodup w h i⟩

/-! ### The order of the writes of a step (R111, R112) -/

/-- Writes of two pixel words commute, as data. -/
theorem pixWrite_comm {m : Memory} (hm : m.wf) {i j : Nat} (hij : i ≠ j) (p q : Pixel) :
    (m.pixWrite i p).pixWrite j q = (m.pixWrite j q).pixWrite i p := by
  refine memory_ext (pixWrite_wf _ _ (pixWrite_wf _ _ hm)) (pixWrite_wf _ _ (pixWrite_wf _ _ hm)) fun a => ?_
  have hdisjoint : ¬ (inWord i a ∧ inWord j a) := by
    simp only [inWord, channelAddr]
    omega
  simp only [readByte_pixWrite]
  by_cases hi : inWord i a
  · rw [if_pos hi, if_pos hi, if_neg fun hj => hdisjoint ⟨hi, hj⟩]
  · rw [if_neg hi, if_neg hi]

section
variable {e : Pixel} {j : Nat} {js ks : List Nat} {m n : Memory}

theorem diffuse_cons {t : Pixel} (ht : m.pixRead j = some t) :
    diffuse e (j :: js) m = diffuse e js (m.pixWrite j (pixAdd t e)) := by
  simp only [diffuse, ht]

/-- DIFFUSE that succeeds has read its first target and goes on from the memory with the error added there. -/
theorem diffuse_cons_ok (hd : diffuse e (j :: js) m = .ok n) :
    ∃ t, m.pixRead j = some t ∧ diffuse e js (m.pixWrite j (pixAdd t e)) = .ok n := by
  cases ht : m.pixRead j with
  | none => simp [diffuse, ht] at hd
  | some t => exact ⟨t, rfl, (diffuse_cons ht).symm.trans hd⟩

/-- DIFFUSE gives the same memory in every order of its distinct targets. -/
theorem diffuse_perm (hp : js.Perm ks) (hm : m.wf) (hjs : js.Nodup) (hd : diffuse e js m = .ok n) :
    diffuse e ks m = .ok n := by
  induction hp generalizing m with
  | nil => exact hd
  | cons k _ ih =>
    obtain ⟨t, ht, hd⟩ := diffuse_cons_ok hd
    rw [diffuse_cons ht]
    exact ih (pixWrite_wf _ _ hm) hjs.of_cons hd
  | swap k l js =>
    have hkl : l ≠ k := fun h => (List.nodup_cons.1 hjs).1 (h ▸ List.mem_cons_self)
    obtain ⟨t, ht, hd⟩ := diffuse_cons_ok hd
    obtain ⟨u, hu, hd⟩ := diffuse_cons_ok hd
    rw [pixRead_pixWrite, if_neg hkl] at hu
    have ht' : (m.pixWrite k (pixAdd u e)).pixRead l = some t := by rw [pixRead_pixWrite, if_neg hkl.symm, ht]
    rw [diffuse_cons hu, diffuse_cons ht', pixWrite_comm hm hkl.symm]
    exact hd
  | trans h₁ _ ih₁ ih₂ => exact ih₂ hm (h₁.nodup_iff.1 hjs) (ih₁ hm hjs hd)

/-- A write of a word that is no target may come before DIFFUSE or after it. -/
theorem diffuse_pixWrite {i : Nat} (p : Pixel) (hm : m.wf) (hi : i ∉ js) :
    diffuse e js (m.pixWrite i p) = (diffuse e js m).map (·.pixWrite i p) := by
  induction js generalizing m with
  | nil => rfl
  | cons j js ih =>
    obtain ⟨hij, hi⟩ := not_or.1 (mt List.mem_cons.2 hi)
    have hread : (m.pixWrite i p).pixRead j = m.pixRead j := by rw [pixRead_pixWrite, if_neg hij]
    cases ht : m.pixRead j with
    | none => simp only [diffuse, hread, ht]; rfl
    | some t =>
      rw [diffuse_cons (hread.trans ht), diffuse_cons ht, pixWrite_comm hm hij]
      exact ih (pixWrite_wf _ _ hm) hi

end

/-- Settles O15: a permutation is made of swaps, and the writes of two words commute. -/
theorem targetOrderIsIrrelevant : Obligations.TargetOrderIsIrrelevant := fun _ _ _ _ _ hm hjs hp hd =>
  diffuse_perm hp hm hjs hd

theorem pixelStep_of_pixRead {w h i : Nat} {m : Memory} {o : Pixel} (ho : m.pixRead i = some o) :
    pixelStep w h i m = diffuse (pixErr o) (stepTargets w h i) (m.pixWrite i (pixThr o)) := by
  simp only [pixelStep, ho]

theorem not_mem_stepTargets_self (w h i : Nat) : i ∉ stepTargets w h i := fun hi =>
  absurd (lt_of_mem_stepTargets hi).1 (Nat.lt_irrefl i)

/-- Settles O16: no target of step i is index i. -/
theorem writeBackOrderIsIrrelevant : Obligations.WriteBackOrderIsIrrelevant := by
  intro w h i m o hm _ ho
  rw [pixelStep_of_pixRead ho, diffuse_pixWrite _ hm (not_mem_stepTargets_self w h i)]
  cases diffuse (pixErr o) (stepTargets w h i) m with
  | ok n => rfl
  | error j => rfl

/-! ### What the pixel steps read: one lane, and the words of the grid (R100, R117, R120) -/

/-- Two memories agree on lane `c` of every pixel word. -/
def LaneAgree (c : Nat) (m m' : Memory) : Prop :=
  ∀ i, m.readByte (channelAddr i c) = m'.readByte (channelAddr i c)

section
variable {c : Nat} {m m' : Memory}

theorem readByte_channelAddr_pixWrite (hc : c < 4) (m : Memory) (i j : Nat) (p : Pixel) :
    (m.pixWrite i p).readByte (channelAddr j c) =
      if i = j then some (laneOf p c) else m.readByte (channelAddr j c) := by
  rw [readByte_pixWrite]
  simp only [inWord_channelAddr hc]
  split
  case isTrue hij => rw [← hij, channelAddr, channelAddr, Nat.add_zero, Nat.add_sub_cancel_left]
  case isFalse => rfl

/-- Words read from memories that agree on a lane agree on that lane. -/
theorem laneAgree_pixRead (hc : c < 4) (hm : LaneAgree c m m') {i : Nat} {p p' : Pixel}
    (hp : m.pixRead i = some p) (hp' : m'.pixRead i = some p') : laneOf p c = laneOf p' c := by
  have hread := hm i
  rw [pixRead_eq_some.1 hp c hc, pixRead_eq_some.1 hp' c hc] at hread
  exact Option.some.inj hread

theorem laneAgree_pixWrite (hc : c < 4) (hm : LaneAgree c m m') {p p' : Pixel} (hp : laneOf p c = laneOf p' c)
    (i : Nat) : LaneAgree c (m.pixWrite i p) (m'.pixWrite i p') := by
  intro j
  rw [readByte_channelAddr_pixWrite hc, readByte_channelAddr_pixWrite hc, hp, hm j]

theorem laneAgree_diffuse (hc : c < 4) {e e' : Pixel} (he : laneOf e c = laneOf e' c) {js : List Nat}
    {n n' : Memory} (hm : LaneAgree c m m') (hd : diffuse e js m = .ok n) (hd' : diffuse e' js m' = .ok n') :
    LaneAgree c n n' := by
  induction js generalizing m m' with
  | nil =>
    cases hd
    cases hd'
    exact hm
  | cons j js ih =>
    obtain ⟨t, ht, hd⟩ := diffuse_cons_ok hd
    obtain ⟨t', ht', hd'⟩ := diffuse_cons_ok hd'
    refine ih (laneAgree_pixWrite hc hm ?_ j) hd hd'
    rw [laneOf_pixAdd, laneOf_pixAdd, he, laneAgree_pixRead hc hm ht ht']

theorem laneAgree_pixelStep (hc : c < 4) {w h i : Nat} {n n' : Memory} (hm : LaneAgree c m m')
    (hs : pixelStep w h i m = .ok n) (hs' : pixelStep w h i m' = .ok n') : LaneAgree c n n' := by
  obtain ⟨o, ho, hd⟩ := pixelStep_ok hs
  obtain ⟨o', ho', hd'⟩ := pixelStep_ok hs'
  have hlane := laneAgree_pixRead hc hm ho ho'
  have hthr : laneOf (pixThr o) c = laneOf (pixThr o') c := by rw [laneOf_pixThr, laneOf_pixThr, hlane]
  have herr : laneOf (pixErr o) c = laneOf (pixErr o') c := by rw [laneOf_pixErr, laneOf_pixErr, hlane]
  exact laneAgree_diffuse hc herr (laneAgree_pixWrite hc hm hthr i) hd hd'

end

section
variable {w h k : Nat} {m n : Memory}

theorem ditherPrefix_succ (hk : ditherPrefix w h m k = .ok n) : ditherPrefix w h m (k + 1) = pixelStep w h k n := by
  simp only [ditherPrefix, hk]

/-- `k + 1` pixel steps that succeed are `k` that do, and one from what they make. -/
theorem ditherPrefix_succ_ok (hk : ditherPrefix w h m (k + 1) = .ok n) :
    ∃ l, ditherPrefix w h m k = .ok l ∧ pixelStep w h k l = .ok n := by
  cases hl : ditherPrefix w h m k with
  | ok l => exact ⟨l, rfl, (ditherPrefix_succ hl).symm.trans hk⟩
  | error j => simp [ditherPrefix, hl] at hk

end

/-- Settles O17: each pixel step keeps the agreement of the two memories on the lane. -/
theorem lanesDoNotInterfere : Obligations.LanesDoNotInterfere := by
  intro w h k c m m' n n' hc hm hk hk'
  induction k generalizing n n' with
  | zero =>
    cases hk
    cases hk'
    exact hm
  | succ k ih =>
    obtain ⟨l, hl, hs⟩ := ditherPrefix_succ_ok hk
    obtain ⟨l', hl', hs'⟩ := ditherPrefix_succ_ok hk'
    exact laneAgree_pixelStep hc (ih l l' hl hl') hs hs'

section
variable {N i : Nat} {m m' n : Memory}

theorem agreeUpTo_pixWrite (hm : AgreeUpTo N m m') (i : Nat) (p : Pixel) :
    AgreeUpTo N (m.pixWrite i p) (m'.pixWrite i p) := by
  intro j hj
  rw [pixRead_pixWrite, pixRead_pixWrite, hm j hj]

theorem agreeUpTo_diffuse {e : Pixel} {js : List Nat} (hjs : ∀ j ∈ js, j < N) (hm : AgreeUpTo N m m')
    (hd : diffuse e js m = .ok n) : ∃ n', diffuse e js m' = .ok n' ∧ AgreeUpTo N n n' := by
  induction js generalizing m m' with
  | nil =>
    cases hd
    exact ⟨m', rfl, hm⟩
  | cons j js ih =>
    obtain ⟨t, ht, hd⟩ := diffuse_cons_ok hd
    rw [diffuse_cons ((hm j (hjs j List.mem_cons_self)).symm.trans ht)]
    exact ih (fun k hk => hjs k (List.mem_cons_of_mem j hk)) (agreeUpTo_pixWrite hm j _) hd

/-- A pixel step of the grid reads words of the grid alone (R107). -/
theorem agreeUpTo_pixelStep {w h : Nat} (hi : i < w * h) (hm : AgreeUpTo (w * h) m m')
    (hs : pixelStep w h i m = .ok n) : ∃ n', pixelStep w h i m' = .ok n' ∧ AgreeUpTo (w * h) n n' := by
  obtain ⟨o, ho, hd⟩ := pixelStep_ok hs
  rw [pixelStep_of_pixRead ((hm i hi).symm.trans ho)]
  exact agreeUpTo_diffuse (fun j hj => (lt_of_mem_stepTargets hj).2) (agreeUpTo_pixWrite hm i _) hd

end

/-- Settles O28: each pixel step succeeds on both memories and keeps their agreement. -/
theorem resultDependsOnlyOnTheGrid : Obligations.ResultDependsOnlyOnTheGrid := by
  intro w h k m m' n hk hm hn
  induction k generalizing n with
  | zero =>
    cases hn
    exact ⟨m', rfl, hm⟩
  | succ k ih =>
    obtain ⟨l, hl, hs⟩ := ditherPrefix_succ_ok hn
    obtain ⟨l', hl', hagree⟩ := ih l (Nat.le_of_succ_le hk) hl
    rw [ditherPrefix_succ hl']
    exact agreeUpTo_pixelStep hk hagree hs

/-! ### The sample of a pixel step (R110, R118) -/

section
variable {w h : Nat} {m n : Memory}

/-- What a pixel step leaves at another pixel: the word as it was, or, at a target, with the error added once. -/
theorem pixelStep_pixRead_of_ne {i j : Nat} {o p : Pixel} (hs : pixelStep w h i m = .ok n)
    (ho : m.pixRead i = some o) (hij : i ≠ j) (hp : n.pixRead j = some p) :
    ∃ t, m.pixRead j = some t ∧ p = if j ∈ stepTargets w h i then pixAdd t (pixErr o) else t := by
  have hkeep : (m.pixWrite i (pixThr o)).pixRead j = m.pixRead j := by rw [pixRead_pixWrite, if_neg hij]
  rw [pixelStep_of_pixRead ho] at hs
  by_cases hj : j ∈ stepTargets w h i
  · obtain ⟨t, ht, ht'⟩ := diffuse_target hs (stepTargets_nodup w h i) hj
    exact ⟨t, hkeep.symm.trans ht, by rw [if_pos hj]; exact Option.some.inj (hp.symm.trans ht')⟩
  · exact ⟨p, by rw [← hkeep, ← diffuse_pixRead hs hj, hp], by rw [if_neg hj]⟩

/-- The errors that the first `k` samples send to lane `c` of pixel `j`, summed without a clamp (R118). -/
def errorSum (w h : Nat) (o : Nat → Pixel) (j c k : Nat) : Nat :=
  ((List.range k).map fun i => if j ∈ stepTargets w h i then (laneOf (pixErr (o i)) c).toNat else 0).sum

theorem errorSum_succ (w h : Nat) (o : Nat → Pixel) (j c k : Nat) : errorSum w h o j c (k + 1) =
    errorSum w h o j c k + if j ∈ stepTargets w h k then (laneOf (pixErr (o k)) c).toNat else 0 := by
  simp [errorSum, List.range_succ]

/-- After `k` pixel steps a pixel not yet visited holds its loaded value plus the errors sent to it, clamped once: a
clamp at each addition comes to the same. -/
theorem ditherPrefix_pixRead_ahead {k j : Nat} {o : Nat → Pixel} {p : Pixel} (hkj : k ≤ j)
    (ho : ∀ i, i < k → ∃ l, ditherPrefix w h m i = .ok l ∧ l.pixRead i = some (o i))
    (hn : ditherPrefix w h m k = .ok n) (hp : n.pixRead j = some p) :
    ∃ v, m.pixRead j = some v ∧ ∀ c, (laneOf p c).toNat = min 255 ((laneOf v c).toNat + errorSum w h o j c k) := by
  induction k generalizing n p with
  | zero =>
    cases hn
    refine ⟨p, hp, fun c => ?_⟩
    have hbyte := (laneOf p c).isLt
    simp only [errorSum, List.range_zero, List.map_nil, List.sum_nil]
    omega
  | succ k ih =>
    obtain ⟨l, hl, hs⟩ := ditherPrefix_succ_ok hn
    obtain ⟨l', hl', hok⟩ := ho k (Nat.lt_succ_self k)
    obtain rfl : l = l' := Except.ok.inj (hl.symm.trans hl')
    obtain ⟨t, ht, rfl⟩ := pixelStep_pixRead_of_ne hs hok (Nat.ne_of_lt hkj) hp
    obtain ⟨v, hv, hsum⟩ := ih (Nat.le_of_succ_le hkj) (fun i hi => ho i (Nat.lt_succ_of_lt hi)) hl ht
    refine ⟨v, hv, fun c => ?_⟩
    have hclamp := hsum c
    rw [errorSum_succ]
    split
    · rw [laneOf_pixAdd, satadd8_toNat]
      omega
    · omega

end

/-- Settles O18: the sample is what the pixel steps before it leave at the pixel. -/
theorem sampleIsTheClampedSum : Obligations.SampleIsTheClampedSum := by
  intro w h j m o _ ho
  obtain ⟨n, hn, hread⟩ := ho j le_rfl
  obtain ⟨v, hv, hsum⟩ := ditherPrefix_pixRead_ahead le_rfl (fun i hi => ho i (Nat.le_of_lt hi)) hn hread
  exact ⟨v, hv, fun c _ => hsum c⟩

/-! ### The sequential order of the pixel steps (R114) -/

section
variable {w h k : Nat} {m n : Memory}

/-- The pixels visited are two-tone (R116). -/
theorem ditherPrefix_twoToneUpTo (hk : ditherPrefix w h m k = .ok n) : TwoToneUpTo n k := by
  induction k generalizing n with
  | zero => exact fun i hi => absurd hi (Nat.not_lt_zero i)
  | succ k ih =>
    obtain ⟨l, hl, hs⟩ := ditherPrefix_succ_ok hk
    exact pixelStep_twoToneUpTo hs (ih hl)

end

/-! ### Every step of a DITHER command (R114, R116, R117) -/

section
variable {w h : Nat} {m : Memory} {s t u : State}

/-- Acceptance begins the sequential order, with no pixel step done (41_commands.md R132). -/
theorem acceptDither_runsFrom (s : State) : RunsFrom s.width.toNat s.height.toNat s.pix s.acceptDither :=
  ⟨rfl, rfl, rfl, 0, rfl, Nat.zero_le _, rfl⟩

theorem runsFrom_of_sameUnit (hu : SameUnit s u) (hr : RunsFrom w h m s) : RunsFrom w h m u := by
  obtain ⟨_, _, _, _, rfl⟩ := hu
  exact hr

theorem runsFrom_of_keepsCommand (hk : KeepsCommand s t) (hr : RunsFrom w h m s) : RunsFrom w h m t := by
  obtain ⟨hphase, hwidth, hheight, hpix, -, -, hdone⟩ := hk
  obtain ⟨hw, hh, hd, i, hp, hi, hm⟩ := hr
  exact ⟨by rw [hwidth, hw], by rw [hheight, hh], hdone hd, i, by rw [hphase, hp], hi, by rw [hpix, hm]⟩

theorem busy_of_runsFrom (hr : RunsFrom w h m s) : s.busy = true := by
  obtain ⟨-, -, -, i, hp, -⟩ := hr
  exact (busy_eq_true_iff s).2 (by simp [hp])

/-- The cursor of a command in flight is the number of pixel steps done. -/
theorem ditherPrefix_of_runsFrom {i : Nat} (hr : RunsFrom w h m s) (hp : s.phase = .dithering i) :
    ditherPrefix w h m i = .ok s.pix := by
  obtain ⟨-, -, -, j, hj, -, hm⟩ := hr
  obtain rfl : j = i := Phase.dithering.inj (hj.symm.trans hp)
  exact hm

theorem gridN_of_runsFrom (hr : RunsFrom w h m s) : s.gridN = w * h := by
  obtain ⟨rfl, rfl, -⟩ := hr
  rfl

/-- A pixel step is the next one of the sequential order (41_commands.md R133). -/
theorem advance_runsFrom {i : Nat} {n : Memory} (hr : RunsFrom w h m s) (hp : s.phase = .dithering i)
    (hi : i < s.gridN) (hs : pixelStep s.width.toNat s.height.toNat i s.pix = .ok n) :
    RunsFrom w h m (s.advance i n) := by
  have hm := ditherPrefix_of_runsFrom hr hp
  obtain ⟨rfl, rfl, hd, -⟩ := hr
  exact ⟨rfl, rfl, hd, i + 1, rfl, hi, (ditherPrefix_succ hm).trans hs⟩

/-- The state at the completion of a DITHER command over a grid of `w` columns and `h` rows: DONE is set, the pixel RAM is
what all pixel steps make of `m`, and the grid is two-tone (R114, R116). -/
def CompletedFrom (w h : Nat) (m : Memory) (t : State) : Prop :=
  t.phase = .idle ∧ t.done = true ∧ ditherPrefix w h m (w * h) = .ok t.pix ∧ TwoToneUpTo t.pix (w * h)

/-- The completion step comes after all pixel steps of the sequential order (41_commands.md R134). -/
theorem completeDither_completedFrom (hr : RunsFrom w h m s) (hp : s.phase = .dithering s.gridN) :
    CompletedFrom w h m s.completeDither := by
  have hm := ditherPrefix_of_runsFrom hr hp
  rw [gridN_of_runsFrom hr] at hm
  exact ⟨rfl, rfl, hm, ditherPrefix_twoToneUpTo hm⟩

/-- Each effect of a step keeps the sequential order, completes it, or is a reset. -/
theorem stepEffect_runsFrom (hr : RunsFrom w h m u) (he : StepEffect s u t) :
    RunsFrom w h m t ∨ (u.phase = .dithering (w * h) ∧ CompletedFrom w h m t) ∨
      (t.phase = .idle ∧ ∃ ts, s.turns = .reset :: ts ∨ s.turns = .resetOverlap :: ts) := by
  cases he with
  | nothing | conflict => exact .inl hr
  | wrote a d _ hw => exact .inl (runsFrom_of_keepsCommand (writeEffect_keepsCommand (busy_of_runsFrom hr) hw) hr)
  | pixelStep _ i n hp hi hs => exact .inl (advance_runsFrom hr hp hi hs)
  | completeDither _ hp =>
    exact .inr (.inl ⟨by rw [hp, gridN_of_runsFrom hr], completeDither_completedFrom hr hp⟩)
  | completeVerify _ b hp =>
    obtain ⟨-, -, -, i, hi, -⟩ := hr
    simp [hp] at hi
  | reset ht => exact .inr (.inr ⟨rfl, ht⟩)

theorem step_runsFrom (hr : RunsFrom w h m s) (hs : step s = .next t) :
    RunsFrom w h m t ∨ (s.phase = .dithering (w * h) ∧ CompletedFrom w h m t) ∨
      (t.phase = .idle ∧ ∃ ts, s.turns = .reset :: ts ∨ s.turns = .resetOverlap :: ts) := by
  obtain ⟨u, hu, he⟩ := step_effect hs
  have hcases := stepEffect_runsFrom (runsFrom_of_sameUnit hu hr) he
  obtain ⟨_, _, _, _, rfl⟩ := hu
  exact hcases

end

/-- Settles O59: acceptance establishes `RunsFrom`, and each effect of a step keeps it or ends the command. -/
theorem everyStepKeepsTheSequentialOrder : Obligations.EveryStepKeepsTheSequentialOrder := by
  refine ⟨fun s hp hfit => ⟨_, issueOnGrid_of_fits ((busy_eq_false_iff s).2 hp) hfit, acceptDither_runsFrom s⟩,
    fun w h m s t hr hs => ?_⟩
  rcases step_runsFrom hr hs with hr | ⟨hp, hidle, hdone, hm, htone⟩ | hreset
  · exact .inl hr
  · exact .inr (.inl ⟨hp, hidle, hdone, hm, htone⟩)
  · exact .inr (.inr hreset)

/-! ### The whole command under every schedule (R117, 20_memory.md R62) -/

/-- No host write touches the turns. -/
theorem writeEffect_turns {a d : Word} {u t : State} (hw : WriteEffect a d u t) : t.turns = u.turns := by
  cases hw <;> rfl

theorem hostStep_turns {s t : State} (hs : hostStep s = .next t) : t.turns = s.turns := by
  rcases hostStep_next hs with ⟨-, rfl⟩ | ⟨op, ops, -, u, hu, ht⟩
  · rfl
  · have hturns : u.turns = s.turns := by
      cases hu with
      | answered | drawn => rfl
      | wrote a d _ r hw => exact writeEffect_turns (u := (s.setHostOps ops).respond (.write r)) hw
    rcases ht with rfl | ⟨-, rfl⟩
    exacts [hturns, hturns]

theorem engineStep_turns {s t : State} (hs : engineStep s = .next t) : t.turns = s.turns := by
  rcases engineStep_next hs with ⟨-, rfl⟩ | ⟨i, m, -, -, -, rfl⟩ | ⟨-, rfl⟩ | ⟨b, -, -, rfl⟩
  all_goals rfl

theorem takeTurn_turns {x : Turn} {s t : State} (hs : takeTurn x s = .next t) : t.turns = s.turns := by
  cases x with
  | host => exact hostStep_turns hs
  | engine => exact engineStep_turns hs
  | reset | resetOverlap =>
    cases hs
    rfl

/-- A step uses up the turn that was fixed next, if any (log 2). -/
theorem step_turns {s t : State} (hs : step s = .next t) : t.turns = s.turns.tail := by
  cases hts : s.turns with
  | nil =>
    simp only [step, nextTurn, hts] at hs
    rw [takeTurn_turns hs, hts, List.tail_nil]
  | cons x ts =>
    simp only [step, nextTurn, hts] at hs
    exact takeTurn_turns hs

/-- With no reset among the next `k + 1` turns the step leaves none among the next `k`. -/
theorem noReset_step {s t : State} {k : Nat} (hs : step s = .next t) (hn : NoReset (s.turns.take (k + 1))) :
    NoReset (t.turns.take k) := by
  rw [step_turns hs]
  cases hts : s.turns with
  | nil => simp [NoReset]
  | cons x ts =>
    rw [hts, List.take_succ_cons] at hn
    exact fun y hy => hn y (List.mem_cons_of_mem x hy)

theorem head_ne_reset_of_noReset {k : Nat} {ts us : List Turn} (hn : NoReset (ts.take (k + 1))) :
    ¬ (ts = .reset :: us ∨ ts = .resetOverlap :: us) := by
  rintro (rfl | rfl) <;> simp [NoReset] at hn

/-- A run without a reset from a command in flight, busy at least up to its last step, keeps the sequential order, or
completes the command at its last step. -/
theorem run_runsFrom {w h k : Nat} {m : Memory} {s t : State} (hr : RunsFrom w h m s) (hn : NoReset (s.turns.take k))
    (hrun : core.run k s = .next t) (hb : ∀ j u, j < k → core.run j s = .next u → u.busy = true) :
    t.width = s.width ∧ t.height = s.height ∧ (RunsFrom w h m t ∨ CompletedFrom w h m t) := by
  induction k generalizing s with
  | zero =>
    obtain rfl := run_zero_next hrun
    exact ⟨rfl, rfl, .inl hr⟩
  | succ k ih =>
    obtain ⟨u, hs, hrun⟩ := run_succ_next hrun
    have hone : NoReset (s.turns.take 1) := fun x hx =>
      hn x (List.take_subset_take_left s.turns (Nat.le_add_left 1 k) hx)
    obtain ⟨hw, hh, -⟩ :=
      (gridIsConstantDuringACommand s u hs).2 ((busy_eq_true_iff s).1 (busy_of_runsFrom hr)) hone
    rcases step_runsFrom hr hs with hu | ⟨-, hu⟩ | ⟨-, ts, hreset⟩
    · rw [← hw, ← hh]
      exact ih hu (noReset_step hs hn) hrun fun j v hj hv =>
        hb (j + 1) v (Nat.succ_lt_succ hj) ((run_succ_of_next j hs).trans hv)
    · obtain rfl : k = 0 := by
        by_contra hk
        have hbusy := hb 1 u (by omega) (run_succ_of_next 0 hs)
        exact (busy_eq_true_iff u).1 hbusy hu.1
      obtain rfl := run_zero_next hrun
      exact ⟨hw, hh, .inr hu⟩
    · exact absurd hreset (head_ne_reset_of_noReset hn)

/-- Settles O27: the run starts with no pixel step done, and each of its steps keeps the sequential order. -/
theorem anyScheduleRunsTheSequentialOrder : Obligations.AnyScheduleRunsTheSequentialOrder := by
  intro s t k hp hd hn hrun hb
  have hstart : RunsFrom s.width.toNat s.height.toNat s.pix s := ⟨rfl, rfl, hd, 0, hp, Nat.zero_le _, rfl⟩
  obtain ⟨hw, hh, ⟨-, -, hdone, i, hi, hle, hm⟩ | ⟨hidle, hdone, hm, htone⟩⟩ := run_runsFrom hstart hn hrun hb
  · exact ⟨hw, hh, .inl ⟨i, hle, hi, hdone, hm⟩⟩
  · exact ⟨hw, hh, .inr ⟨hidle, hdone, hm, fun i hi => channels_of_twoToneUpTo htone hi⟩⟩

/-! ### On a loaded grid nothing can fail (R119) -/

section
variable {w h k : Nat} {m n : Memory}

theorem loaded_pixWrite {N : Nat} (hm : Loaded m N) (i : Nat) (p : Pixel) : Loaded (m.pixWrite i p) N :=
  fun j hj => written_pixWrite p (hm j hj)

theorem loaded_diffuse {N : Nat} {e : Pixel} {js : List Nat} (hm : Loaded m N) (hd : diffuse e js m = .ok n) :
    Loaded n N := by
  induction js generalizing m with
  | nil =>
    cases hd
    exact hm
  | cons j js ih =>
    obtain ⟨t, -, hd⟩ := diffuse_cons_ok hd
    exact ih (loaded_pixWrite hm j _) hd

/-- A pixel step of a loaded grid succeeds, for its pixel and its targets are words of the grid (R107). -/
theorem pixelStep_of_loaded {i : Nat} (hi : i < w * h) (hm : Loaded m (w * h)) :
    ∃ n, pixelStep w h i m = .ok n ∧ Loaded n (w * h) := by
  obtain ⟨o, ho⟩ := Option.isSome_iff_exists.1 (hm i hi)
  have hm' := loaded_pixWrite hm i (pixThr o)
  obtain ⟨n, hn⟩ := diffuse_total (e := pixErr o) fun j hj => hm' j (lt_of_mem_stepTargets hj).2
  exact ⟨n, (pixelStep_of_pixRead ho).trans hn, loaded_diffuse hm' hn⟩

/-- The pixel steps of a loaded grid succeed, one after another. -/
theorem ditherPrefix_of_loaded (hm : Loaded m (w * h)) (hk : k ≤ w * h) :
    ∃ n, ditherPrefix w h m k = .ok n ∧ Loaded n (w * h) := by
  induction k with
  | zero => exact ⟨m, rfl, hm⟩
  | succ k ih =>
    obtain ⟨l, hl, hloaded⟩ := ih (Nat.le_of_succ_le hk)
    rw [ditherPrefix_succ hl]
    exact pixelStep_of_loaded hk hloaded

/-- The pixel steps leave every byte outside the grid as it was (20_memory.md R60). -/
theorem ditherPrefix_readByte (hk : k ≤ w * h) (hn : ditherPrefix w h m k = .ok n) {a : Nat}
    (ha : ∀ i, i < w * h → ¬ inWord i a) : n.readByte a = m.readByte a := by
  induction k generalizing n with
  | zero =>
    cases hn
    rfl
  | succ k ih =>
    obtain ⟨l, hl, hs⟩ := ditherPrefix_succ_ok hn
    rw [pixelStep_readByte hs (ha k hk) fun j hj => ha j (lt_of_mem_stepTargets hj).2, ih (Nat.le_of_succ_le hk) hl]

end

section
variable {s : State} {i : Nat}

theorem engineStep_of_pixelStep {m : Memory} (hp : s.phase = .dithering i) (hi : i < s.gridN)
    (hs : pixelStep s.width.toNat s.height.toNat i s.pix = .ok m) : engineStep s = .next (s.advance i m) := by
  simp only [engineStep, hp, if_pos hi, hs]

theorem engineStep_of_scanned (hp : s.phase = .dithering s.gridN) : engineStep s = .next s.completeDither := by
  simp only [engineStep, hp, Nat.lt_irrefl, if_false, if_true]

theorem engineStep_of_scan {b : Bool} (hp : s.phase = .verifying) (hb : twoToneGrid s.pix s.gridN = .ok b) :
    engineStep s = .next (s.completeVerify b) := by
  simp only [engineStep, hp, hb]

end

/-- Settles O23: the pixel step finds its words, the scan of VERIFY too, and the other engine steps read none. -/
theorem engineCannotFailOnALoadedGrid : Obligations.EngineCannotFailOnALoadedGrid := by
  intro s hs
  cases hp : s.phase with
  | idle => exact ⟨s, by simp only [engineStep, hp], rfl, hs⟩
  | dithering i =>
    obtain hi | rfl | hi := Nat.lt_trichotomy i s.gridN
    · obtain ⟨m, hm, hloaded⟩ := pixelStep_of_loaded hi hs
      exact ⟨_, engineStep_of_pixelStep hp hi hm, rfl, hloaded⟩
    · exact ⟨_, engineStep_of_scanned hp, rfl, hs⟩
    · exact ⟨s, by simp only [engineStep, hp, if_neg hi.asymm, if_neg hi.ne'], rfl, hs⟩
  | verifying =>
    have hscan : twoToneGrid s.pix s.gridN = .ok (decide (TwoToneUpTo s.pix s.gridN)) :=
      twoToneGrid_ok.2 ⟨hs, decide_eq_true_iff⟩
    exact ⟨_, engineStep_of_scan hp hscan, rfl, hs⟩

/-! ### A whole command on the engine's own turns (R116, 41_commands.md R132 to R134) -/

/-- A run that goes on, continued by one step. -/
theorem run_succ_last {s u t : State} {k : Nat} (hrun : core.run k s = .next u) (hs : step u = .next t) :
    core.run (k + 1) s = .next t := by
  induction k generalizing s with
  | zero =>
    obtain rfl := run_zero_next hrun
    exact run_succ_of_next 0 hs
  | succ k ih =>
    obtain ⟨v, hv, hrun⟩ := run_succ_next hrun
    rw [run_succ_of_next (k + 1) hv, ih hrun]

/-- The host's write of 1 to CMD in IDLE, over a grid that fits, is the acceptance of DITHER (R130, R132). -/
theorem step_dither {s : State} {ts : List Turn} {ops : List HostOp} (hp : s.phase = .idle)
    (hfit : s.gridN ≤ s.capacity) (hts : s.turns = .host :: ts) (hops : s.hostOps = .write 0x008 0x00000001 :: ops) :
    step s = .next (State.respond (.write .okay) { s with turns := ts, hostOps := ops }).acceptDither := by
  have hnext : HostNext s (.write 0x008 0x00000001) := ⟨.inr (by rw [hts]; rfl), by rw [hops]; rfl⟩
  obtain ⟨-, hwrite, -⟩ := stepPerformsTheTurn s
  have hdecode : decode 0x00000001 = .ok .dither := EncodingProofs.decode_encode .dither
  rw [hwrite _ _ hnext, hts, hops, List.tail_cons, List.tail_cons]
  refine (memWrite_register .cmd (by simp) _ _).trans ?_
  simp only [writeLocation, cmdWrite, hdecode]
  exact issueOnGrid_of_fits ((busy_eq_false_iff s).2 hp) hfit

/-- `k` engine turns from the acceptance of DITHER do `k` pixel steps, and nothing else (41_commands.md R133). -/
theorem run_pixelSteps {s : State} {k : Nat} {n : Memory} {ts : List Turn} (hp : s.phase = .dithering 0)
    (hc : s.pixCount = 0) (hts : s.turns = List.replicate k .engine ++ ts) (hk : k ≤ s.gridN)
    (hn : ditherPrefix s.width.toNat s.height.toNat s.pix k = .ok n) : core.run k s = .next { s with
      pix := n, pixCount := BitVec.ofNat 32 k, phase := .dithering k, turns := ts } := by
  induction k generalizing n ts with
  | zero =>
    cases hn
    have hts : s.turns = ts := hts
    have hc : s.pixCount = BitVec.ofNat 32 0 := hc
    rw [← hts, ← hp, ← hc]
    rfl
  | succ k ih =>
    obtain ⟨l, hl, hs⟩ := ditherPrefix_succ_ok hn
    rw [List.replicate_succ', List.append_assoc] at hts
    refine run_succ_last (ih hts (Nat.le_of_succ_le hk) hl) ?_
    rw [step_of_engineMoves (.inr rfl)]
    exact engineStep_of_pixelStep (i := k) rfl hk hs

/-- `N + 1` engine turns from the acceptance of DITHER run the whole command. -/
theorem run_dither {s : State} {n : Memory} {ts : List Turn} (hp : s.phase = .dithering 0) (hc : s.pixCount = 0)
    (hts : s.turns = List.replicate (s.gridN + 1) .engine ++ ts)
    (hn : ditherPrefix s.width.toNat s.height.toNat s.pix s.gridN = .ok n) : core.run (s.gridN + 1) s = .next { s with
      pix := n, pixCount := BitVec.ofNat 32 s.gridN, phase := .idle, done := true, turns := ts } := by
  rw [List.replicate_succ', List.append_assoc] at hts
  refine run_succ_last (run_pixelSteps hp hc hts le_rfl hn) ?_
  rw [step_of_engineMoves (.inr rfl)]
  exact engineStep_of_scanned rfl

/-- Settles O26: acceptance, the pixel steps of the grid and the completion step, one after another. -/
theorem ditherYieldsATwoToneGrid : Obligations.DitherYieldsATwoToneGrid := by
  intro s ts ops hcap hp hfit hloaded hts hops
  obtain ⟨n, hn, -⟩ := ditherPrefix_of_loaded hloaded le_rfl
  have hcount : (BitVec.ofNat 32 s.gridN).toNat = s.gridN := by
    obtain ⟨-, hmax⟩ := hcap
    rw [BitVec.toNat_ofNat]
    exact Nat.mod_eq_of_lt (by omega)
  have hrun := (run_succ_of_next (s.gridN + 1) (step_dither hp hfit hts hops)).trans (run_dither rfl rfl rfl hn)
  exact ⟨_, hrun, hn, fun i hi => channels_of_twoToneUpTo (ditherPrefix_twoToneUpTo hn) hi,
    fun a ha => ditherPrefix_readByte le_rfl hn ha, rfl, rfl, rfl, rfl, hcount, rfl, rfl, rfl, rfl, rfl, rfl, rfl, rfl⟩

end Sys2Proof.DatapathProofs

/-! ## The commands and the engine steps that carry them out (41_commands.md) -/

namespace Sys2Proof.CommandProofs

open Sys2Proof.Machine Sys2Proof.Laws Sys2Proof.StateProofs Sys2Proof.MemoryProofs Sys2Proof.DatapathProofs

/-! ### What a decoded command does at its issue (R130 to R132, R135) -/

section
variable {s : State}

theorem issueOnGrid_of_busy {f : State → State} (hb : s.busy = true) :
    issueOnGrid f s = .next (s.raise .busyCmd) := issue_of_busy hb

/-- Every command is rejected with BUSY_CMD while another runs. -/
theorem exec_of_busy (i : Instr) (hp : s.phase ≠ .idle) : exec i s = .next (s.raise .busyCmd) := by
  have hb := (busy_eq_true_iff s).2 hp
  cases i with
  | nop => exact issue_of_busy (f := fun s => s) hb
  | dither | verify => exact issueOnGrid_of_busy hb

theorem exec_nop_of_idle (hp : s.phase = .idle) : exec .nop s = .next s :=
  issue_of_idle (f := fun s => s) ((busy_eq_false_iff s).2 hp)

/-- In IDLE a command over a grid that does not fit is rejected with SIZE. -/
theorem exec_of_oversize {i : Instr} (hi : i ≠ .nop) (hp : s.phase = .idle) (hn : s.capacity < s.gridN) :
    exec i s = .next (s.raise .size) := by
  have hb := (busy_eq_false_iff s).2 hp
  cases i with
  | nop => exact absurd rfl hi
  | dither | verify => exact issueOnGrid_of_oversize hb hn

theorem exec_dither_of_fits (hp : s.phase = .idle) (hn : s.gridN ≤ s.capacity) :
    exec .dither s = .next s.acceptDither := issueOnGrid_of_fits ((busy_eq_false_iff s).2 hp) hn

theorem exec_verify_of_fits (hp : s.phase = .idle) (hn : s.gridN ≤ s.capacity) :
    exec .verify s = .next s.acceptVerify := issueOnGrid_of_fits ((busy_eq_false_iff s).2 hp) hn

end

/-- Settles O6: NOP is issued without a check but that of BUSY. -/
theorem nopHasNoEffect : Obligations.NopHasNoEffect := fun _ => ⟨exec_nop_of_idle, exec_of_busy .nop⟩

/-- Settles O7: in IDLE, over a grid that fits, no check rejects DITHER. -/
theorem ditherIsAccepted : Obligations.DitherIsAccepted := fun s hp hn =>
  ⟨_, exec_dither_of_fits hp hn, acceptDither_busy s, rfl⟩

/-- Settles O8: in IDLE, over a grid that fits, no check rejects VERIFY. -/
theorem verifyIsAccepted : Obligations.VerifyIsAccepted := fun s hp hn =>
  ⟨_, exec_verify_of_fits hp hn, acceptVerify_busy s, rfl⟩

/-! ### The frame of the commands (R130 to R132, R135, 60_exceptions.md R162) -/

/-- Everything the issue of a decoded command can do: one of the two rejections, nothing, or its acceptance. -/
inductive ExecEffect (s : State) : Instr → State → Prop where
  | busy (i : Instr) (hp : s.phase ≠ .idle) : ExecEffect s i (s.raise .busyCmd)
  | oversize (i : Instr) (hi : i ≠ .nop) (hn : s.capacity < s.gridN) : ExecEffect s i (s.raise .size)
  | nop (hp : s.phase = .idle) : ExecEffect s .nop s
  | acceptDither (hp : s.phase = .idle) (hn : s.gridN ≤ s.capacity) : ExecEffect s .dither s.acceptDither
  | acceptVerify (hp : s.phase = .idle) (hn : s.gridN ≤ s.capacity) : ExecEffect s .verify s.acceptVerify

theorem exec_effect {i : Instr} {s t : State} (h : exec i s = .next t) : ExecEffect s i t := by
  obtain ⟨u, hu, he⟩ : ∃ u, exec i s = .next u ∧ ExecEffect s i u := by
    by_cases hp : s.phase = .idle
    · cases i with
      | nop => exact ⟨_, exec_nop_of_idle hp, .nop hp⟩
      | dither =>
        obtain hn | hn := Nat.lt_or_ge s.capacity s.gridN
        · exact ⟨_, exec_of_oversize nofun hp hn, .oversize _ nofun hn⟩
        · exact ⟨_, exec_dither_of_fits hp hn, .acceptDither hp hn⟩
      | verify =>
        obtain hn | hn := Nat.lt_or_ge s.capacity s.gridN
        · exact ⟨_, exec_of_oversize nofun hp hn, .oversize _ nofun hn⟩
        · exact ⟨_, exec_verify_of_fits hp hn, .acceptVerify hp hn⟩
    · exact ⟨_, exec_of_busy i hp, .busy i hp⟩
  cases hu.symm.trans h
  exact he

section
variable {i : Instr} {s t : State}

/-- No command writes another register, the pixel RAM or a field of the environment. -/
theorem execEffect_frame (h : ExecEffect s i t) :
    t.irqEn = s.irqEn ∧ t.width = s.width ∧ t.height = s.height ∧ t.capacity = s.capacity ∧ t.port = s.port ∧
    t.draws = s.draws ∧ t.hostOps = s.hostOps ∧ t.turns = s.turns ∧ t.pix = s.pix := by
  cases h
  all_goals exact ⟨rfl, rfl, rfl, rfl, rfl, rfl, rfl, rfl, rfl⟩

/-- Where no check fails the error latch is kept. -/
theorem execEffect_latch (h : ExecEffect s i t) (hp : s.phase = .idle) (hok : i = .nop ∨ s.gridN ≤ s.capacity) :
    t.err = s.err ∧ t.errCode = s.errCode := by
  cases h with
  | busy _ hbusy => exact absurd hp hbusy
  | oversize _ hi hn => exact absurd hn (Nat.not_lt.2 (hok.resolve_left hi))
  | nop | acceptDither | acceptVerify => exact ⟨rfl, rfl⟩

/-- Where a check fails the flags, the phase and PIXCOUNT are kept. -/
theorem execEffect_rejected (h : ExecEffect s i t) (hr : s.phase ≠ .idle ∨ (i ≠ .nop ∧ s.capacity < s.gridN)) :
    t.done = s.done ∧ t.phase = s.phase ∧ t.pixCount = s.pixCount ∧ t.twoTone = s.twoTone := by
  cases h with
  | busy | oversize | nop => exact ⟨rfl, rfl, rfl, rfl⟩
  | acceptDither hp hn | acceptVerify hp hn =>
    obtain hbusy | ⟨-, hover⟩ := hr
    · exact absurd hp hbusy
    · exact absurd hover (Nat.not_lt.2 hn)

theorem execEffect_nop (h : ExecEffect s .nop t) : t.done = s.done ∧ t.phase = s.phase := by
  cases h
  all_goals exact ⟨rfl, rfl⟩

/-- Only DITHER writes PIXCOUNT and TWO_TONE at its issue (R132). -/
theorem execEffect_of_ne_dither (h : ExecEffect s i t) (hi : i ≠ .dither) :
    t.pixCount = s.pixCount ∧ t.twoTone = s.twoTone := by
  cases h with
  | acceptDither => exact absurd rfl hi
  | busy | oversize | nop | acceptVerify => exact ⟨rfl, rfl⟩

end

/-- Settles O9: each part is read off the five effects that the issue of a command can have. -/
theorem commandFrame : Obligations.CommandFrame := by
  intro i s t h
  have he := exec_effect h
  obtain ⟨hirq, hwidth, hheight, hcap, hport, hdraws, hops, hturns, hpix⟩ := execEffect_frame he
  refine ⟨hirq, hwidth, hheight, hcap, hport, hdraws, hops, hturns, fun a => by rw [hpix], execEffect_latch he, ?_,
    execEffect_of_ne_dither he, execEffect_rejected he⟩
  rintro rfl
  exact execEffect_nop he

/-! ### The write to CMD and the step that performs it (R130, 20_memory.md R71) -/

/-- A write to CMD answers OKAY and issues its word. -/
theorem memWrite_cmd (d : Word) (s : State) : memWrite 0x008 d s = cmdWrite d (s.respond (.write .okay)) :=
  memWrite_register .cmd nofun d s

section
variable {d : Word} {s : State}

theorem cmdWrite_of_ok {i : Instr} (hd : decode d = .ok i) : cmdWrite d s = exec i s := by
  simp only [cmdWrite, hd]

theorem cmdWrite_of_error {e : IllegalWord} (hd : decode d = .error e) : cmdWrite d s = execIllegal s := by
  simp only [cmdWrite, hd]

/-- Every word, legal or not, is rejected with BUSY_CMD while a command runs: that check comes first. -/
theorem cmdWrite_of_busy (hp : s.phase ≠ .idle) : cmdWrite d s = .next (s.raise .busyCmd) := by
  cases hd : decode d with
  | ok i => exact (cmdWrite_of_ok hd).trans (exec_of_busy i hp)
  | error e => exact (cmdWrite_of_error hd).trans (issue_of_busy ((busy_eq_true_iff s).2 hp))

/-- In IDLE an illegal word is rejected with ILLEGAL_CMD. -/
theorem cmdWrite_of_illegal (hp : s.phase = .idle) (hd : ∃ e, decode d = .error e) :
    cmdWrite d s = .next (s.raise .illegalCmd) := by
  obtain ⟨e, he⟩ := hd
  exact (cmdWrite_of_error he).trans (issue_of_idle ((busy_eq_false_iff s).2 hp))

/-- In IDLE a legal word whose command works on a grid that does not fit is rejected with SIZE. -/
theorem cmdWrite_of_oversize (hp : s.phase = .idle) (hd : decode d = .ok .dither ∨ decode d = .ok .verify)
    (hn : s.capacity < s.gridN) : cmdWrite d s = .next (s.raise .size) := by
  obtain hd | hd := hd
  all_goals exact (cmdWrite_of_ok hd).trans (exec_of_oversize nofun hp hn)

end

/-- Settles O5: the write to CMD issues its word, and each check is the one that the issue makes. -/
theorem dispatchChecksInOrder : Obligations.DispatchChecksInOrder := by
  intro d s
  rw [memWrite_cmd]
  exact ⟨fun hp => cmdWrite_of_busy hp, fun hp hd => cmdWrite_of_illegal hp hd,
    fun hp hd => (cmdWrite_of_ok hd).trans (exec_nop_of_idle hp), fun hp hd hn => cmdWrite_of_oversize hp hd hn,
    fun hp hd hn => (cmdWrite_of_ok hd).trans (exec_dither_of_fits hp hn),
    fun hp hd hn => (cmdWrite_of_ok hd).trans (exec_verify_of_fits hp hn)⟩

/-- The step in which the host writes CMD issues the word, its turn and operation over and its response OKAY. -/
theorem step_cmdWrite {s : State} {d : Word} (hnext : HostNext s (.write 0x008 d)) : step s = cmdWrite d { s with
    turns := s.turns.tail, hostOps := s.hostOps.tail, port := some (.write .okay) } := by
  obtain ⟨-, hwrite, -⟩ := stepPerformsTheTurn s
  exact (hwrite _ _ hnext).trans (memWrite_cmd d _)

/-- The next step of the state that `withFetchWord` makes is the host's write of the table word (log 13). -/
theorem withFetchWord_hostNext (s : State) (nbits w : Nat) :
    HostNext (s.withFetchWord nbits w) (.write 0x008 (tableWord nbits w)) := ⟨.inr rfl, rfl⟩

theorem decode_tableWord {nbits w : Nat} {i : Instr} (hd : decodeTableWord nbits w = some i) :
    decode (tableWord nbits w) = .ok i := by
  rw [decodeTableWord] at hd
  split at hd
  · cases hw : decode (tableWord nbits w) with
    | ok j =>
      rw [hw] at hd
      exact congrArg Except.ok (Option.some.inj hd)
    | error e =>
      rw [hw] at hd
      cases hd
  · cases hd

/-- Settles O4: the host's step performs the write, the write issues the word, and the word decodes to its command. -/
theorem stepRunsTheDecodedCommand : Obligations.StepRunsTheDecodedCommand :=
  ⟨fun _ _ hnext => ⟨fun _ hd => (step_cmdWrite hnext).trans (cmdWrite_of_ok hd),
      fun _ hd => (step_cmdWrite hnext).trans (cmdWrite_of_error hd)⟩,
    fun s nbits w _ hd =>
      (step_cmdWrite (withFetchWord_hostNext s nbits w)).trans (cmdWrite_of_ok (decode_tableWord hd))⟩

/-! ### The engine's steps (R133, R134, R136) -/

/-- What a pixel step that succeeds leaves at its pixel and at each of its targets (40_datapath.md R109). -/
theorem pixelStep_pixRead {w h i : Nat} {m n : Memory} (hs : pixelStep w h i m = .ok n) :
    ∃ o, m.pixRead i = some o ∧ n.pixRead i = some (pixThr o) ∧
      ∀ j ∈ stepTargets w h i, ∃ t, m.pixRead j = some t ∧ n.pixRead j = some (pixAdd t (pixErr o)) := by
  have hself := not_mem_stepTargets_self w h i
  obtain ⟨o, ho, hd⟩ := pixelStep_ok hs
  refine ⟨o, ho, by rw [diffuse_pixRead hd hself, pixRead_pixWrite, if_pos rfl], fun j hj => ?_⟩
  have hij : i ≠ j := fun hij => hself (hij ▸ hj)
  obtain ⟨t, ht, ht'⟩ := diffuse_target hd (stepTargets_nodup w h i) hj
  rw [pixRead_pixWrite, if_neg hij] at ht
  exact ⟨t, ht, ht'⟩

/-- Settles O19: on a loaded grid the pixel step succeeds, and the engine's step takes its memory over. -/
theorem pixelStepThresholdsAndDiffuses : Obligations.PixelStepThresholdsAndDiffuses := by
  intro s i hp hi hloaded
  obtain ⟨m, hs, -⟩ := pixelStep_of_loaded hi hloaded
  obtain ⟨o, ho, hthr, htargets⟩ := pixelStep_pixRead hs
  exact ⟨m, o, engineStep_of_pixelStep hp hi hs, ho, hthr, htargets, fun _ => pixelStep_readByte hs⟩

/-- Settles O20: past the last pixel the engine's step is the completion. -/
theorem ditherCompletionSetsDone : Obligations.DitherCompletionSetsDone := fun s hp =>
  ⟨_, engineStep_of_scanned hp, completeDither_busy s, rfl⟩

theorem pixTwoTone_iff (p : Pixel) : pixTwoTone p = true ↔ ∀ c, c < 4 → laneOf p c = 0 ∨ laneOf p c = 255 := by
  refine ⟨fun hp c _ => laneOf_of_pixTwoTone hp c, fun hp => ?_⟩
  simp only [pixTwoTone, Bool.and_eq_true, chanTwoTone_iff]
  exact ⟨⟨⟨hp 0 (by decide), hp 1 (by decide)⟩, hp 2 (by decide)⟩, hp 3 (by decide)⟩

/-- On a loaded grid the words are two-tone exactly when every channel that they hold is 0 or 255 (40_datapath.md R121). -/
theorem twoToneUpTo_iff_of_loaded {m : Memory} {n : Nat} (hm : Loaded m n) : TwoToneUpTo m n ↔
    ∀ i, i < n → ∀ p, m.pixRead i = some p → ∀ c, c < 4 → laneOf p c = 0 ∨ laneOf p c = 255 := by
  refine forall_congr' fun i => forall_congr' fun hi => ?_
  obtain ⟨q, hq⟩ := Option.isSome_iff_exists.1 (hm i hi)
  rw [wordTwoTone_of_pixRead hq, pixTwoTone_iff, hq]
  constructor
  · intro htwo p hqp
    exact Option.some.inj hqp ▸ htwo
  · exact fun hall => hall q rfl

/-- Settles O21: on a loaded grid the scan succeeds, and what it answers is the predicate. -/
theorem verifyStepReportsTwoTone : Obligations.VerifyStepReportsTwoTone := by
  intro s hp hloaded
  have hscan : twoToneGrid s.pix s.gridN = .ok (decide (TwoToneUpTo s.pix s.gridN)) :=
    twoToneGrid_ok.2 ⟨hloaded, decide_eq_true_iff⟩
  exact ⟨_, engineStep_of_scan hp hscan, decide_eq_true_iff.trans (twoToneUpTo_iff_of_loaded hloaded)⟩

end Sys2Proof.CommandProofs

/-! ## Errors, acknowledgement and the interrupt (60_exceptions.md) -/

namespace Sys2Proof.ExceptionProofs

open Sys2Proof.Machine Sys2Proof.Laws Sys2Proof.StateProofs Sys2Proof.MemoryProofs Sys2Proof.DatapathProofs
  Sys2Proof.CommandProofs

/-! ### The error latch (R151, R152, R163) -/

/-- Settles O31: the latch is open exactly while ERR is 0, and each cause has the code of R151. -/
theorem raiseLatchesTheFirstError : Obligations.RaiseLatchesTheFirstError := by
  intro e s
  cases herr : s.err with
  | true => simp [State.raise, herr]
  | false => cases e <;> simp [State.raise, herr, ErrorCause.code]

section
variable {s t u : State}

theorem raise_errCode_of_err (e : ErrorCause) (h : s.err = true) : (s.raise e).errCode = s.errCode := by
  simp [h]

/-- An acknowledgement that leaves ERR set has kept ERRCODE (10_state.md R28). -/
theorem acknowledge_errCode_of_err {d : Word} (h : (s.acknowledge d).err = true) :
    (s.acknowledge d).errCode = s.errCode := by
  rw [acknowledge_err] at h
  rw [acknowledge_errCode]
  split_ifs at h ⊢
  rfl

/-- No host write changes ERRCODE while ERR stays 1: an error raised finds the latch closed. -/
theorem writeEffect_keeps_errCode {a d : Word} (hw : WriteEffect a d u t) (hu : u.err = true) (ht : t.err = true) :
    t.errCode = u.errCode := by
  cases hw with
  | raise e => exact raise_errCode_of_err e hu
  | acknowledge => exact acknowledge_errCode_of_err ht
  | _ => rfl

theorem stepEffect_keeps_errCode (he : StepEffect s u t) (hu : u.err = true) (ht : t.err = true) :
    t.errCode = u.errCode := by
  cases he with
  | conflict => exact raise_errCode_of_err _ hu
  | wrote a d _ hw => exact writeEffect_keeps_errCode hw hu ht
  | reset => cases ht
  | _ => rfl

end

/-- Settles O32: each effect of a step keeps ERRCODE while the latch is closed, and a reset opens it. -/
theorem firstErrorIsKeptUntilCleared : Obligations.FirstErrorIsKeptUntilCleared := by
  intro s t h hs ht
  obtain ⟨u, ⟨_, _, _, _, rfl⟩, he⟩ := step_effect h
  have hkept := stepEffect_keeps_errCode he hs ht
  exact hkept

/-! ### The interrupt output (R160, R161, R163) -/

/-- Settles O34: the level is the conjunction of R160. -/
theorem irqIsTheMaskedLevel : Obligations.IrqIsTheMaskedLevel := fun s => by
  simp only [State.irq, Bool.and_eq_true, Bool.or_eq_true]

section
variable {s : State}

theorem irq_of_done (hi : s.irqEn = true) (hd : s.done = true) : s.irq = true :=
  (irqIsTheMaskedLevel s).2 ⟨hi, .inl hd⟩

/-- Every raised error drives the line while IRQ_EN is 1 (R160). -/
theorem irq_raise (e : ErrorCause) (hi : s.irqEn = true) : (s.raise e).irq = true :=
  (irqIsTheMaskedLevel _).2 ⟨hi, .inr rfl⟩

/-- A write that the guard of R156 drops is an error raised, and drives the line. -/
theorem irq_guardedWrite_of_busy (f : State → State) (hi : s.irqEn = true) (hp : s.phase ≠ .idle) :
    (guardedWrite f s).irq = true := by
  rw [guardedWrite_of_busy hp]
  exact irq_raise _ hi

/-- Where DONE is 0, ERR alone drives the line. -/
theorem irq_iff_err_of_not_done (hd : s.done = false) : s.irq = true ↔ s.irqEn = true ∧ s.err = true := by
  simp [irqIsTheMaskedLevel s, hd]

/-- The sources that an acknowledgement leaves set are those whose bit it does not write (10_state.md R28). -/
theorem irq_acknowledge (d : Word) : (s.acknowledge d).irq = true ↔ s.irqEn = true ∧
    ((s.done = true ∧ d.getLsbD 1 = false) ∨ (s.err = true ∧ d.getLsbD 2 = false)) := by
  rw [irqIsTheMaskedLevel, acknowledge_irqEn, acknowledge_done, acknowledge_err]
  cases d.getLsbD 1 <;> cases d.getLsbD 2 <;> simp

/-- In IDLE acceptance of DITHER or VERIFY clears DONE and keeps IRQ_EN and ERR (R162, 41_commands.md R132, R135). -/
theorem exec_accepts {i : Instr} (hp : s.phase = .idle) (hi : i ≠ .nop) (hn : s.gridN ≤ s.capacity) :
    ∃ t, exec i s = .next t ∧ t.done = false ∧ t.irqEn = s.irqEn ∧ t.err = s.err := by
  cases i with
  | nop => exact absurd rfl hi
  | dither => exact ⟨_, exec_dither_of_fits hp hn, rfl, rfl, rfl⟩
  | verify => exact ⟨_, exec_verify_of_fits hp hn, rfl, rfl, rfl⟩

end

/-- Settles O35: each transaction and each completion step is known by its next state, whose level R160 gives. -/
theorem irqFollowsItsSources : Obligations.IrqFollowsItsSources := by
  intro s
  refine ⟨fun hi => ?_, fun d => ⟨_, memWrite_register .ctrl nofun d s, rfl, rfl, irqIsTheMaskedLevel _⟩,
    fun d => ⟨_, memWrite_register .status nofun d s, irq_acknowledge d⟩, fun i hp hne hn => ?_⟩
  · refine ⟨fun hp => ⟨_, engineStep_of_scanned hp, irq_of_done hi rfl⟩, fun hp hloaded => ?_, fun e => irq_raise e hi,
      fun d hp => ⟨_, (memWrite_cmd d s).trans (cmdWrite_of_busy hp), irq_raise _ hi⟩,
      fun d e hp hd => ⟨_, (memWrite_cmd d s).trans (cmdWrite_of_illegal hp ⟨e, hd⟩), irq_raise _ hi⟩,
      fun d hp hd hn => ⟨_, (memWrite_cmd d s).trans (cmdWrite_of_oversize hp hd hn), irq_raise _ hi⟩,
      fun d hp => ⟨⟨_, memWrite_width d s, irq_guardedWrite_of_busy _ hi hp⟩,
        _, memWrite_height d s, irq_guardedWrite_of_busy _ hi hp⟩, fun i a d hp hlt ha => ?_⟩
    · obtain ⟨b, hstep, -⟩ := verifyStepReportsTwoTone s hp hloaded
      exact ⟨_, hstep, irq_of_done hi rfl⟩
    · have hl := locate_pix hlt ha
      exact ⟨⟨_, memRead_pix_of_busy hp hl, irq_raise .hostConflict hi⟩,
        _, memWrite_pix_of_busy d hp hl, irq_raise .hostConflict hi⟩
  · obtain ⟨t, ht, hdone, hirqEn, herr⟩ := exec_accepts hp hne hn
    refine ⟨t, ht, hdone, ?_⟩
    rw [irq_iff_err_of_not_done hdone, hirqEn, herr]

/-! ### A DITHER command and the VERIFY command after it (R164) -/

section
variable {s t u : State} {k : Nat} {m : Memory}

/-- Engine steps that go on, continued by one. -/
theorem engineSteps_succ_last (hk : engineSteps k s = .next t) (hu : engineStep t = .next u) :
    engineSteps (k + 1) s = .next u := by
  induction k generalizing s with
  | zero =>
    cases hk
    simp only [engineSteps, hu]
  | succ k ih =>
    rw [engineSteps] at hk ⊢
    cases hv : engineStep s with
    | next v =>
      simp only [hv] at hk ⊢
      exact ih hk
    | fault f => simp [hv] at hk
    | refused r => simp [hv] at hk

/-- `k` engine steps from the first pixel do `k` pixel steps in scan order (R133, 40_datapath.md R114). -/
theorem engineSteps_of_ditherPrefix (hp : s.phase = .dithering 0) (hk : k ≤ s.gridN)
    (hm : ditherPrefix s.width.toNat s.height.toNat s.pix k = .ok m) :
    ∃ c, engineSteps k s = .next { s with pix := m, pixCount := c, phase := .dithering k } := by
  induction k generalizing m with
  | zero =>
    cases hm
    exact ⟨s.pixCount, by rw [← hp]; rfl⟩
  | succ k ih =>
    obtain ⟨l, hl, hs⟩ := ditherPrefix_succ_ok hm
    obtain ⟨c, hsteps⟩ := ih (Nat.le_of_succ_le hk) hl
    exact ⟨_, engineSteps_succ_last hsteps (engineStep_of_pixelStep (i := k) rfl hk hs)⟩

/-- The `N` pixel steps and the completion step of a DITHER command (41_commands.md R134). -/
theorem engineSteps_dither (hp : s.phase = .dithering 0)
    (hm : ditherPrefix s.width.toNat s.height.toNat s.pix s.gridN = .ok m) :
    ∃ c, engineSteps (s.gridN + 1) s = .next { s with pix := m, pixCount := c, phase := .idle, done := true } := by
  obtain ⟨c, hsteps⟩ := engineSteps_of_ditherPrefix hp le_rfl hm
  exact ⟨c, engineSteps_succ_last hsteps (engineStep_of_scanned rfl)⟩

/-- One engine step verifies the whole grid (41_commands.md R136). -/
theorem engineSteps_verify {b : Bool} (hp : s.phase = .verifying) (hb : twoToneGrid s.pix s.gridN = .ok b) :
    engineSteps 1 s = .next (s.completeVerify b) := engineSteps_succ_last rfl (engineStep_of_scan hp hb)

end

/-- Settles O29: the pixel steps leave a loaded two-tone grid, of which the scan of VERIFY answers true. -/
theorem verifyAfterDitherReportsTwoTone : Obligations.VerifyAfterDitherReportsTwoTone := by
  intro s hp hfit hloaded
  obtain ⟨m, hm, hloaded'⟩ := ditherPrefix_of_loaded hloaded le_rfl
  obtain ⟨c, hdither⟩ := engineSteps_dither (s := s.acceptDither) rfl hm
  have hscan : twoToneGrid m s.gridN = .ok true :=
    twoToneGrid_ok.2 ⟨hloaded', iff_of_true rfl (ditherPrefix_twoToneUpTo hm)⟩
  exact ⟨_, _, _, _, exec_dither_of_fits hp hfit, hdither, exec_verify_of_fits rfl hfit,
    engineSteps_verify rfl hscan, rfl, rfl, rfl, rfl⟩

end Sys2Proof.ExceptionProofs

/-! ## Reset and the hazards (70_reset_and_hazards.md) -/

namespace Sys2Proof.HazardProofs

open Sys2Proof.Machine Sys2Proof.Laws Sys2Proof.StateProofs Sys2Proof.MemoryProofs Sys2Proof.DatapathProofs
  Sys2Proof.CommandProofs Sys2Proof.ExceptionProofs

/-! ### Reads of unwritten words (R181) -/

/-- Settles O43: the address is mapped to the word, and in IDLE a read of it goes to the pixel RAM. -/
theorem unwrittenHostReadFaults : Obligations.UnwrittenHostReadFaults := by
  intro s i a hp hi ha hnone
  rw [memRead_of_ok (locate_pix hi ha)]
  simp [readLocation, (busy_eq_false_iff s).2 hp, hnone]

section
variable {s : State} {i j : Nat}

theorem engineStep_of_pixelStep_error (hp : s.phase = .dithering i) (hi : i < s.gridN)
    (hs : pixelStep s.width.toNat s.height.toNat i s.pix = .error j) :
    engineStep s = .fault (.unwrittenRead .dither j) := by
  simp only [engineStep, hp, if_pos hi, hs]

theorem engineStep_of_scan_error (hp : s.phase = .verifying) (hj : twoToneGrid s.pix s.gridN = .error j) :
    engineStep s = .fault (.unwrittenRead .verify j) := by
  simp only [engineStep, hp, hj]

/-- Everything that can stop an engine step: a pixel step or a scan of VERIFY that met an unwritten word. -/
theorem engineStep_fault {f : Fault} (h : engineStep s = .fault f) :
    (∃ i j, s.phase = .dithering i ∧ i < s.gridN ∧
      pixelStep s.width.toNat s.height.toNat i s.pix = .error j ∧ f = .unwrittenRead .dither j) ∨
    (∃ j, s.phase = .verifying ∧ twoToneGrid s.pix s.gridN = .error j ∧ f = .unwrittenRead .verify j) := by
  cases hp : s.phase with
  | idle => simp [engineStep, hp] at h
  | dithering i =>
    obtain hi | rfl | hi := Nat.lt_trichotomy i s.gridN
    · cases hs : pixelStep s.width.toNat s.height.toNat i s.pix with
      | ok m => simp [engineStep_of_pixelStep hp hi hs] at h
      | error j =>
        rw [engineStep_of_pixelStep_error hp hi hs] at h
        cases h
        exact .inl ⟨i, j, rfl, hi, hs, rfl⟩
    · simp [engineStep_of_scanned hp] at h
    · simp [engineStep, hp, hi.asymm, hi.ne'] at h
  | verifying =>
    cases hs : twoToneGrid s.pix s.gridN with
    | ok b => simp [engineStep_of_scan hp hs] at h
    | error j =>
      rw [engineStep_of_scan_error hp hs] at h
      cases h
      exact .inr ⟨j, rfl, rfl, rfl⟩

end

/-- A pixel step does not succeed when its pixel or a target is unwritten (40_datapath.md R108, R109). -/
theorem pixelStep_of_unwritten {w h i j : Nat} {m : Memory} (hj : j = i ∨ j ∈ stepTargets w h i)
    (hnone : m.pixRead j = none) : ∃ k, pixelStep w h i m = .error k := by
  cases hs : pixelStep w h i m with
  | error k => exact ⟨k, rfl⟩
  | ok n =>
    obtain ⟨o, ho, -, htargets⟩ := pixelStep_pixRead hs
    obtain rfl | hj := hj
    · simp [ho] at hnone
    · obtain ⟨t, ht, -⟩ := htargets j hj
      simp [ht] at hnone

/-- The scan of VERIFY does not succeed when a word of the grid is unwritten (log 7). -/
theorem twoToneGrid_of_unwritten {m : Memory} {n j : Nat} (hj : j < n) (hnone : m.pixRead j = none) :
    ∃ k, twoToneGrid m n = .error k := by
  cases hs : twoToneGrid m n with
  | error k => exact ⟨k, rfl⟩
  | ok b =>
    obtain ⟨hloaded, -⟩ := twoToneGrid_ok.1 hs
    simpa [Written, hnone] using hloaded j hj

/-- Settles O24: what stops a pixel step or a scan is an unwritten word, and every unwritten word they read does. -/
theorem engineFaultsOnlyOnUnwrittenWords : Obligations.EngineFaultsOnlyOnUnwrittenWords := by
  intro s
  refine ⟨engineStep_not_refused s, fun f hf => ?_, fun i j hp hi hj hnone => ?_, fun j hp hj hnone => ?_⟩
  · obtain ⟨i, j, hp, hi, hs, rfl⟩ | ⟨j, hp, hs, rfl⟩ := engineStep_fault hf
    · obtain ⟨hj, hnone⟩ := pixelStep_error hs
      have hlt : j < s.gridN := hj.elim (fun hj => hj ▸ hi) fun hj => (lt_of_mem_stepTargets hj).2
      exact ⟨j, hlt, hnone, .inl ⟨rfl, i, hp, hi, hj⟩⟩
    · obtain ⟨hlt, hnone⟩ := twoToneGrid_error hs
      exact ⟨j, hlt, hnone, .inr ⟨rfl, hp⟩⟩
  · obtain ⟨k, hk⟩ := pixelStep_of_unwritten hj hnone
    exact ⟨k, engineStep_of_pixelStep_error hp hi hk⟩
  · obtain ⟨k, hk⟩ := twoToneGrid_of_unwritten hj hnone
    exact ⟨k, engineStep_of_scan_error hp hk⟩

/-! ### The length of a command (R190) -/

/-- Settles O25: after k ≤ N engine steps the k pixel steps are done, and the step after the N-th completes. -/
theorem ditherTakesNPlusOneEngineSteps : Obligations.DitherTakesNPlusOneEngineSteps := by
  refine ⟨fun s hp hloaded => ⟨fun k hk => ?_, ?_⟩, fun s hp hloaded => ?_⟩
  · obtain ⟨m, hm, -⟩ := ditherPrefix_of_loaded hloaded hk
    obtain ⟨c, hsteps⟩ := engineSteps_of_ditherPrefix hp hk hm
    exact ⟨_, hsteps, rfl, rfl⟩
  · obtain ⟨m, hm, -⟩ := ditherPrefix_of_loaded hloaded le_rfl
    obtain ⟨c, hsteps⟩ := engineSteps_dither hp hm
    exact ⟨_, hsteps, rfl, rfl⟩
  · obtain ⟨b, hstep, -⟩ := verifyStepReportsTwoTone s hp hloaded
    exact ⟨_, engineSteps_succ_last rfl hstep, rfl, rfl⟩

/-! ### A DITHER command over a two-tone grid (R184) -/

section
variable {v : Byte}

/-- THRESHOLD keeps 0 and 255 (40_datapath.md R101). -/
theorem thr_of_twoTone (hv : v = 0 ∨ v = 255) : thr v = v := by
  obtain rfl | rfl := hv
  · rfl
  · rfl

/-- A channel of 0 or 255 has no error to distribute (40_datapath.md R103). -/
theorem chanErr_thr_of_twoTone (hv : v = 0 ∨ v = 255) : chanErr v (thr v) = 0 := by
  obtain rfl | rfl := hv
  · rfl
  · rfl

theorem satadd8_zero (v : Byte) : satadd8 v 0 = v := by
  apply BitVec.eq_of_toNat_eq
  have hv := v.isLt
  rw [satadd8_toNat, BitVec.ofNat_eq_ofNat, BitVec.toNat_zero]
  omega

end

section
variable {p q e : Pixel}

theorem pixel_ext_of_laneOf (h : ∀ c, laneOf p c = laneOf q c) : p = q := by
  obtain ⟨r, g, b, a⟩ := p
  rw [show r = q.r from h 0, show g = q.g from h 1, show b = q.b from h 2, show a = q.a from h 3]

theorem pixThr_of_twoTone (hp : pixTwoTone p = true) : pixThr p = p :=
  pixel_ext_of_laneOf fun c => by rw [laneOf_pixThr, thr_of_twoTone (laneOf_of_pixTwoTone hp c)]

theorem laneOf_pixErr_of_twoTone (hp : pixTwoTone p = true) (c : Nat) : laneOf (pixErr p) c = 0 := by
  rw [laneOf_pixErr, chanErr_thr_of_twoTone (laneOf_of_pixTwoTone hp c)]

theorem pixAdd_of_zero (he : ∀ c, laneOf e c = 0) (t : Pixel) : pixAdd t e = t :=
  pixel_ext_of_laneOf fun c => by rw [laneOf_pixAdd, he, satadd8_zero]

end

section
variable {w h i k : Nat} {m : Memory}

/-- Writing back the pixel that a word holds changes nothing, as data. -/
theorem pixWrite_of_pixRead (hm : m.wf) {p : Pixel} (hp : m.pixRead i = some p) : m.pixWrite i p = m := by
  refine memory_ext (pixWrite_wf i p hm) hm fun a => ?_
  rw [readByte_pixWrite]
  split_ifs with ha
  · have hchannel : a - channelAddr i 0 < 4 ∧ channelAddr i (a - channelAddr i 0) = a := by
      simp only [inWord, channelAddr] at ha ⊢
      omega
    obtain ⟨hc, haddr⟩ := hchannel
    rw [← pixRead_eq_some.1 hp _ hc, haddr]
  · rfl

/-- DIFFUSE of a zero error vector over written targets changes nothing. -/
theorem diffuse_of_zero {e : Pixel} {js : List Nat} (hm : m.wf) (he : ∀ c, laneOf e c = 0)
    (hjs : ∀ j ∈ js, Written m j) : diffuse e js m = .ok m := by
  induction js with
  | nil => rfl
  | cons j js ih =>
    obtain ⟨t, ht⟩ := Option.isSome_iff_exists.1 (hjs j List.mem_cons_self)
    rw [diffuse_cons ht, pixAdd_of_zero he, pixWrite_of_pixRead hm ht]
    exact ih fun k hk => hjs k (List.mem_cons_of_mem j hk)

theorem loaded_of_twoToneUpTo {n : Nat} (ht : TwoToneUpTo m n) : Loaded m n := by
  intro i hi
  obtain ⟨p, hp, -⟩ := channels_of_twoToneUpTo ht hi
  exact Option.isSome_iff_exists.2 ⟨p, hp⟩

/-- A pixel step of a two-tone grid writes back its pixel and adds no error to its targets. -/
theorem pixelStep_of_twoToneUpTo (hm : m.wf) (ht : TwoToneUpTo m (w * h)) (hi : i < w * h) :
    pixelStep w h i m = .ok m := by
  obtain ⟨p, hp, hlanes⟩ := channels_of_twoToneUpTo ht hi
  have htwo := (pixTwoTone_iff p).2 hlanes
  rw [pixelStep_of_pixRead hp, pixThr_of_twoTone htwo, pixWrite_of_pixRead hm hp]
  exact diffuse_of_zero hm (laneOf_pixErr_of_twoTone htwo) fun j hj =>
    loaded_of_twoToneUpTo ht j (lt_of_mem_stepTargets hj).2

theorem ditherPrefix_of_twoToneUpTo (hm : m.wf) (ht : TwoToneUpTo m (w * h)) (hk : k ≤ w * h) :
    ditherPrefix w h m k = .ok m := by
  induction k with
  | zero => rfl
  | succ k ih =>
    rw [ditherPrefix_succ (ih (Nat.le_of_succ_le hk))]
    exact pixelStep_of_twoToneUpTo hm ht hk

end

/-- Settles O30: each of the N pixel steps leaves the two-tone grid, and so the RAM, as it was. -/
theorem ditherIsTheIdentityOnATwoToneGrid : Obligations.DitherIsTheIdentityOnATwoToneGrid := fun _ _ _ hm ht =>
  ditherPrefix_of_twoToneUpTo hm ht le_rfl

/-! ### Reset events (R180 to R182) -/

section
variable {s : State} {ts : List Turn}

theorem step_of_reset (h : s.turns = .reset :: ts) : step s = .next (s.setTurns ts).resetEvent := by
  simp only [step, nextTurn, h, takeTurn]

/-- A reset that overlaps a transaction is a reset of the state in which the transaction is over (log 10). -/
theorem step_of_resetOverlap (h : s.turns = .resetOverlap :: ts) :
    step s = .next ((s.setTurns ts).setHostOps (dropOverlapped s.hostOps)).resetEvent := by
  simp only [step, nextTurn, h, takeTurn, setTurns_hostOps]

/-- The state after a reset that overlaps a transaction is that of the reset alone, with what the host has then
still to do. -/
theorem step_of_resetOverlap_eq {ops : List HostOp} (h : s.turns = .resetOverlap :: ts)
    (hops : dropOverlapped s.hostOps = ops) :
    step s = step { s with turns := .reset :: ts, hostOps := ops } := by
  rw [step_of_resetOverlap h, hops, step_of_reset (ts := ts) rfl]
  rfl

end

/-- Settles O48: the step is the reset event of the state whose turn is over, and each field is as that sets it. -/
theorem resetEventSetsEveryRegister : Obligations.ResetEventSetsEveryRegister := fun _ _ h =>
  ⟨_, step_of_reset h, rfl, rfl, rfl, rfl, rfl, rfl, rfl, rfl, rfl, rfl, rfl, fun _ => rfl, rfl, rfl, rfl, rfl, rfl⟩

/-- Settles O49: a read or a write is dropped from the host's operations, and `WAIT.IDLE` is not. -/
theorem overlappedTransactionHasNoEffect : Obligations.OverlappedTransactionHasNoEffect := by
  intro s ts ops h
  refine ⟨fun a d hops => step_of_resetOverlap_eq h ?_, fun hops => step_of_resetOverlap_eq h ?_⟩
  · obtain hops | hops := hops
    all_goals rw [hops, dropOverlapped]
  · obtain hops | hops := hops
    all_goals rw [hops, dropOverlapped]

/-! ### The default turn (R190, logs 2 and 3) -/

section
variable {s : State}

/-- With no turn fixed an enabled engine step is taken, and else the host moves (log 2). -/
theorem step_of_no_turn (h : s.turns = []) : step s = if s.engineEnabled then engineStep s else hostStep s := by
  simp only [step, nextTurn, h, defaultTurn]
  split
  · rfl
  · rfl

theorem engineEnabled_of_idle (hp : s.phase = .idle) : s.engineEnabled = false := by
  simp only [State.engineEnabled, hp]

end

/-- Settles O58: the default turn is the engine's exactly when one of its steps is enabled, which in IDLE none is. -/
theorem unfixedTurnsAreFairToTheEngine : Obligations.UnfixedTurnsAreFairToTheEngine := by
  intro s h
  have hhost : s.engineEnabled = false → step s = hostStep s := fun he => by
    rw [step_of_no_turn h, if_neg (Bool.eq_false_iff.1 he)]
  exact ⟨fun he => by rw [step_of_no_turn h, if_pos he], hhost, fun hp hops =>
    (hhost (engineEnabled_of_idle hp)).trans (hostStep_of_nil hops)⟩

end Sys2Proof.HazardProofs

/-! ## What can stop a step (93_implementation_defined.md U4, U11) -/

namespace Sys2Proof.SafetyProofs

open Sys2Proof.Machine Sys2Proof.Laws Sys2Proof.StateProofs Sys2Proof.MemoryProofs Sys2Proof.HazardProofs

/-- The outcomes left to a step under the invariant, for a capacity and a pixel RAM: it goes on, or it faults on a word
inside the RAM that nothing has written. A refusal is none of them. -/
inductive StopsOnlyOnUnwritten (capacity : Nat) (m : Memory) : Host.Outcome State Fault Refusal → Prop where
  | next (t : State) : StopsOnlyOnUnwritten capacity m (.next t)
  | fault (r : Reader) {i : Nat} (hi : i < capacity) (hnone : m.pixRead i = none) :
      StopsOnlyOnUnwritten capacity m (.fault (.unwrittenRead r i))

section
variable {s : State}

/-- A host read is refused only for a reserved ERRCODE, which the latch's invariant rules out (U11, log 9). -/
theorem memRead_stops (hl : LatchInv s) (a : Word) : StopsOnlyOnUnwritten s.capacity s.pix (memRead a s) := by
  cases h : memRead a s with
  | next t => exact .next t
  | fault f =>
    obtain ⟨i, rfl, hi, -, hnone⟩ := memRead_fault h
    exact .fault .host hi hnone
  | refused r =>
    obtain ⟨-, hreserved⟩ := memRead_refused h
    have hge : 5 ≤ s.errCode.toNat := of_decide_eq_true hreserved
    exact absurd hl.1 (Nat.not_le.2 hge)

/-- `WAIT.IDLE` stops only where its STATUS read does (30_encoding.md R88). -/
theorem waitIdleRead_stops (hl : LatchInv s) : StopsOnlyOnUnwritten s.capacity s.pix (waitIdleRead s) := by
  have hread := memRead_stops hl (Location.addr .status)
  unfold waitIdleRead
  generalize memRead (Location.addr .status) s = o at hread ⊢
  cases hread with
  | next t => exact .next _
  | fault r hi hnone => exact .fault r hi hnone

theorem performOp_stops (hl : LatchInv s) (op : HostOp) : StopsOnlyOnUnwritten s.capacity s.pix (performOp op s) := by
  cases op with
  | read a => exact memRead_stops hl a
  | write a d =>
    obtain ⟨t, ht⟩ := memWrite_total a d s
    rw [performOp, ht]
    exact .next t
  | waitIdle => exact waitIdleRead_stops hl

theorem hostStep_stops (hl : LatchInv s) : StopsOnlyOnUnwritten s.capacity s.pix (hostStep s) := by
  cases hops : s.hostOps with
  | nil => exact hostStep_of_nil hops ▸ .next s
  | cons op ops =>
    rw [hostStep_of_head (op := op) (by simp [hops])]
    exact performOp_stops (s := { s with hostOps := s.hostOps.tail }) hl op

/-- The word that stops an engine step is in the grid, and the grid of a command in flight fits the RAM. -/
theorem engineStep_stops (hf : FlightInv s) : StopsOnlyOnUnwritten s.capacity s.pix (engineStep s) := by
  obtain ⟨hrefused, hfault, -⟩ := engineFaultsOnlyOnUnwrittenWords s
  cases h : engineStep s with
  | next t => exact .next t
  | refused r => exact absurd h (hrefused r)
  | fault f =>
    obtain ⟨j, hj, hnone, hcause⟩ := hfault f h
    have hfits : s.phase ≠ .idle → j < s.capacity := fun hp =>
      hj.trans_le (hf ((busy_eq_true_iff s).2 hp)).1
    obtain ⟨rfl, i, hp, -⟩ | ⟨rfl, hp⟩ := hcause
    · exact .fault .dither (hfits (by simp [hp])) hnone
    · exact .fault .verify (hfits (by simp [hp])) hnone

/-- A reset event always goes on; the other turns are the host's and the engine's steps. -/
theorem takeTurn_stops (hs : Inv s) (x : Turn) : StopsOnlyOnUnwritten s.capacity s.pix (takeTurn x s) := by
  obtain ⟨-, -, hl, hf, -⟩ := hs
  cases x with
  | host => exact hostStep_stops hl
  | engine => exact engineStep_stops hf
  | reset | resetOverlap => exact .next _

theorem step_stops (hs : Inv s) : StopsOnlyOnUnwritten s.capacity s.pix (step s) := by
  unfold step nextTurn
  split
  · exact takeTurn_stops hs _
  next x ts _ => exact takeTurn_stops (inv_of_sameUnit (sameUnit_setTurns s ts) hs) x

end

/-- Settles O52: of the outcomes left to a step none is a refusal, and the one fault is an unwritten read. -/
theorem stepStopsOnlyOnUnwrittenReads : Obligations.StepStopsOnlyOnUnwrittenReads := by
  intro s hs
  have hstep := step_stops hs
  refine ⟨fun r hr => ?_, fun f hf => ?_⟩
  · rw [hr] at hstep
    cases hstep
  · rw [hf] at hstep
    obtain _ | ⟨r, hi, hnone⟩ := hstep
    exact ⟨r, _, rfl, hi, hnone⟩

end Sys2Proof.SafetyProofs
